-- ==== Sys2Proof/Word.lean ====
section
/-! DEFINITION. The word types of CORE (00_scope R6, R8): every register and memory value is an unsigned bit pattern of a fixed width. -/

namespace Sys2Proof

/-- A general register, a timer or a memory cell: 8 bits (R21, R26, R28). -/
abbrev Byte := BitVec 8

/-- `pc`, `I`, a call-stack slot or an instruction word: 16 bits (R23, R24, R25, R82). -/
abbrev Word := BitVec 16

/-- The number of a general register, a field `x` or `y` of an instruction word (R83). -/
abbrev RegId := BitVec 4

/-- The sprite height field `n` of draw (R83). -/
abbrev Nibble := BitVec 4

/-- The 12-bit address field `nnn` (R83). -/
abbrev Addr := BitVec 12

/-- One of the 16 keypad symbols 0x0 to 0xF (R186). -/
abbrev Key := BitVec 4

/-- One row of the framebuffer: bit `x` is the pixel of column `x` (R27). -/
abbrev PixelRow := BitVec 64

/-- The framebuffer: 32 rows of 64 one-bit pixels, so that a cell can hold 0 or 1 and nothing else (R27). -/
abbrev Frame := Vector PixelRow 32

/-- A symbol of the host's key source, named by a number (R234: an uninterpreted type, only `KEYMAP` looks at it). -/
abbrev HostSymbol := Nat

end Sys2Proof
end

