-- ==== Sys2Proof/Syntax.lean ====
section
/-! DEFINITION. The 34 operations of 30_encoding R90, one constructor per row of spec/opcode_table.json, in the table's
order. Operands are the fields of R83 at their exact widths, so an operand that does not fit cannot be written. -/

namespace Sys2Proof

/-- An instruction of CORE. The bits that decode does not examine (R95) are not part of it. -/
inductive Instr where
  /-- `clear-screen` (R170) -/
  | clearScreen
  /-- `return` (R110) -/
  | ret
  /-- `jump nnn` (R111) -/
  | jump (nnn : Addr)
  /-- `call nnn` (R112) -/
  | call (nnn : Addr)
  /-- `skip-eq-imm X,kk` (R114) -/
  | skipEqImm (x : RegId) (kk : Byte)
  /-- `skip-neq-imm X,kk` (R115) -/
  | skipNeqImm (x : RegId) (kk : Byte)
  /-- `skip-eq-reg X,Y` (R116) -/
  | skipEqReg (x y : RegId)
  /-- `skip-neq-reg X,Y` (R117) -/
  | skipNeqReg (x y : RegId)
  /-- `load-imm X,kk` (R130) -/
  | loadImm (x : RegId) (kk : Byte)
  /-- `add-imm X,kk` (R131) -/
  | addImm (x : RegId) (kk : Byte)
  /-- `move X,Y` (R132) -/
  | move (x y : RegId)
  /-- `or X,Y` (R133) -/
  | bitOr (x y : RegId)
  /-- `and X,Y` (R134) -/
  | bitAnd (x y : RegId)
  /-- `xor X,Y` (R135) -/
  | bitXor (x y : RegId)
  /-- `add X,Y` (R136) -/
  | add (x y : RegId)
  /-- `sub X,Y` (R137) -/
  | sub (x y : RegId)
  /-- `shr X` (R138) -/
  | shr (x : RegId)
  /-- `subn X,Y` (R139) -/
  | subn (x y : RegId)
  /-- `shl X` (R140) -/
  | shl (x : RegId)
  /-- `set-index nnn` (R150) -/
  | setIndex (nnn : Addr)
  /-- `jump-offset nnn` (R113) -/
  | jumpOffset (nnn : Addr)
  /-- `random X,kk` (R141) -/
  | random (x : RegId) (kk : Byte)
  /-- `draw X,Y,N` (R171) -/
  | draw (x y : RegId) (n : Nibble)
  /-- `skip-if-key X` (R180) -/
  | skipIfKey (x : RegId)
  /-- `skip-if-not-key X` (R181) -/
  | skipIfNotKey (x : RegId)
  /-- `get-delay X` (R182) -/
  | getDelay (x : RegId)
  /-- `wait-key X` (R183) -/
  | waitKey (x : RegId)
  /-- `set-delay X` (R184) -/
  | setDelay (x : RegId)
  /-- `set-sound X` (R185) -/
  | setSound (x : RegId)
  /-- `add-index X` (R151) -/
  | addIndex (x : RegId)
  /-- `font-address X` (R152) -/
  | fontAddress (x : RegId)
  /-- `store-bcd X` (R153) -/
  | storeBcd (x : RegId)
  /-- `store-regs X` (R154) -/
  | storeRegs (x : RegId)
  /-- `load-regs X` (R155) -/
  | loadRegs (x : RegId)
  deriving DecidableEq, Repr

end Sys2Proof
end

