-- ==== Sys2Proof/WellFormed.lean ====
section
/-! DEFINITION. The rows of 30_encoding R90 by name, their formats (R84), and the check of an assembly line (R96): an
operand list of the wrong shape, or a value that does not fit its field, is refused. A term of Instr is well-formed by its
types alone, because each operand has exactly the width of its field: `Instr.wellFormed` checks the line it is written as. -/

namespace Sys2Proof

/-- The name of a row of R90, in the table's order. -/
inductive Op where
  | clearScreen | ret | jump | call | skipEqImm | skipNeqImm | skipEqReg | skipNeqReg | loadImm | addImm
  | move | bitOr | bitAnd | bitXor | add | sub | shr | subn | shl | setIndex | jumpOffset | random | draw
  | skipIfKey | skipIfNotKey | getDelay | waitKey | setDelay | setSound | addIndex | fontAddress | storeBcd
  | storeRegs | loadRegs
  deriving DecidableEq, Repr

/-- All 34 rows, in the order of R90. -/
def Op.all : List Op := [
  .clearScreen, .ret, .jump, .call, .skipEqImm, .skipNeqImm, .skipEqReg, .skipNeqReg, .loadImm, .addImm,
  .move, .bitOr, .bitAnd, .bitXor, .add, .sub, .shr, .subn, .shl, .setIndex, .jumpOffset, .random, .draw,
  .skipIfKey, .skipIfNotKey, .getDelay, .waitKey, .setDelay, .setSound, .addIndex, .fontAddress, .storeBcd,
  .storeRegs, .loadRegs]

/-- The row's name in the source and in spec/opcode_table.json (R90). -/
def Op.mnemonic : Op → String
  | .clearScreen => "clear-screen"
  | .ret => "return"
  | .jump => "jump"
  | .call => "call"
  | .skipEqImm => "skip-eq-imm"
  | .skipNeqImm => "skip-neq-imm"
  | .skipEqReg => "skip-eq-reg"
  | .skipNeqReg => "skip-neq-reg"
  | .loadImm => "load-imm"
  | .addImm => "add-imm"
  | .move => "move"
  | .bitOr => "or"
  | .bitAnd => "and"
  | .bitXor => "xor"
  | .add => "add"
  | .sub => "sub"
  | .shr => "shr"
  | .subn => "subn"
  | .shl => "shl"
  | .setIndex => "set-index"
  | .jumpOffset => "jump-offset"
  | .random => "random"
  | .draw => "draw"
  | .skipIfKey => "skip-if-key"
  | .skipIfNotKey => "skip-if-not-key"
  | .getDelay => "get-delay"
  | .waitKey => "wait-key"
  | .setDelay => "set-delay"
  | .setSound => "set-sound"
  | .addIndex => "add-index"
  | .fontAddress => "font-address"
  | .storeBcd => "store-bcd"
  | .storeRegs => "store-regs"
  | .loadRegs => "load-regs"

/-- The seven formats of R84. -/
inductive Format where
  | z | a | xk | xy | xyd | xyn | xd
  deriving DecidableEq, Repr

/-- The format of a row (R84, R90). -/
def Op.format : Op → Format
  | .clearScreen => .z
  | .ret => .z
  | .jump => .a
  | .call => .a
  | .skipEqImm => .xk
  | .skipNeqImm => .xk
  | .skipEqReg => .xy
  | .skipNeqReg => .xy
  | .loadImm => .xk
  | .addImm => .xk
  | .move => .xyd
  | .bitOr => .xyd
  | .bitAnd => .xyd
  | .bitXor => .xyd
  | .add => .xyd
  | .sub => .xyd
  | .shr => .xyd
  | .subn => .xyd
  | .shl => .xyd
  | .setIndex => .a
  | .jumpOffset => .a
  | .random => .xk
  | .draw => .xyn
  | .skipIfKey => .xd
  | .skipIfNotKey => .xd
  | .getDelay => .xd
  | .waitKey => .xd
  | .setDelay => .xd
  | .setSound => .xd
  | .addIndex => .xd
  | .fontAddress => .xd
  | .storeBcd => .xd
  | .storeRegs => .xd
  | .loadRegs => .xd

/-- The operand fields of R83 as an assembly line gives them (R96). -/
inductive OperandKind where
  | reg | byte | addr | nibble
  deriving DecidableEq, Repr

/-- The "Operands" column of R90. -/
def Op.operands : Op → List OperandKind
  | .clearScreen => []
  | .ret => []
  | .jump => [.addr]
  | .call => [.addr]
  | .skipEqImm => [.reg, .byte]
  | .skipNeqImm => [.reg, .byte]
  | .skipEqReg => [.reg, .reg]
  | .skipNeqReg => [.reg, .reg]
  | .loadImm => [.reg, .byte]
  | .addImm => [.reg, .byte]
  | .move => [.reg, .reg]
  | .bitOr => [.reg, .reg]
  | .bitAnd => [.reg, .reg]
  | .bitXor => [.reg, .reg]
  | .add => [.reg, .reg]
  | .sub => [.reg, .reg]
  | .shr => [.reg]
  | .subn => [.reg, .reg]
  | .shl => [.reg]
  | .setIndex => [.addr]
  | .jumpOffset => [.addr]
  | .random => [.reg, .byte]
  | .draw => [.reg, .reg, .nibble]
  | .skipIfKey => [.reg]
  | .skipIfNotKey => [.reg]
  | .getDelay => [.reg]
  | .waitKey => [.reg]
  | .setDelay => [.reg]
  | .setSound => [.reg]
  | .addIndex => [.reg]
  | .fontAddress => [.reg]
  | .storeBcd => [.reg]
  | .storeRegs => [.reg]
  | .loadRegs => [.reg]

/-- An operand of an assembly line: a register `V0` to `VF` by its index, or a number (R96). -/
inductive Operand where
  | reg (index : Nat)
  | imm (value : Nat)
  deriving DecidableEq, Repr

/-- R96: a register index is one hexadecimal digit, `kk` is 0 to 255, `nnn` is 0 to 4095, `N` is 0 to 15. -/
def Operand.fits : OperandKind → Operand → Bool
  | .reg, .reg k => decide (k < 16)
  | .byte, .imm v => decide (v < 256)
  | .addr, .imm v => decide (v < 4096)
  | .nibble, .imm v => decide (v < 16)
  | .reg, .imm _ => false
  | .byte, .reg _ => false
  | .addr, .reg _ => false
  | .nibble, .reg _ => false

/-- The operands have the kinds of the row, one for one, and each fits. -/
def operandsFit : List OperandKind → List Operand → Bool
  | [], [] => true
  | k :: ks, o :: os => o.fits k && operandsFit ks os
  | [], _ :: _ => false
  | _ :: _, [] => false

/-- One assembly line: a row's name and its operands in the order of the table (R96). -/
structure Line where
  op       : Op
  operands : List Operand
  deriving DecidableEq, Repr

/-- An assembler accepts the line (R96). -/
def Line.wellFormed (l : Line) : Bool := operandsFit l.op.operands l.operands

/-- The row of an instruction. -/
def Instr.op : Instr → Op
  | .clearScreen => .clearScreen
  | .ret => .ret
  | .jump _ => .jump
  | .call _ => .call
  | .skipEqImm _ _ => .skipEqImm
  | .skipNeqImm _ _ => .skipNeqImm
  | .skipEqReg _ _ => .skipEqReg
  | .skipNeqReg _ _ => .skipNeqReg
  | .loadImm _ _ => .loadImm
  | .addImm _ _ => .addImm
  | .move _ _ => .move
  | .bitOr _ _ => .bitOr
  | .bitAnd _ _ => .bitAnd
  | .bitXor _ _ => .bitXor
  | .add _ _ => .add
  | .sub _ _ => .sub
  | .shr _ => .shr
  | .subn _ _ => .subn
  | .shl _ => .shl
  | .setIndex _ => .setIndex
  | .jumpOffset _ => .jumpOffset
  | .random _ _ => .random
  | .draw _ _ _ => .draw
  | .skipIfKey _ => .skipIfKey
  | .skipIfNotKey _ => .skipIfNotKey
  | .getDelay _ => .getDelay
  | .waitKey _ => .waitKey
  | .setDelay _ => .setDelay
  | .setSound _ => .setSound
  | .addIndex _ => .addIndex
  | .fontAddress _ => .fontAddress
  | .storeBcd _ => .storeBcd
  | .storeRegs _ => .storeRegs
  | .loadRegs _ => .loadRegs

/-- The line an instruction is written as (R96). -/
def Instr.line : Instr → Line
  | .clearScreen => ⟨.clearScreen, []⟩
  | .ret => ⟨.ret, []⟩
  | .jump nnn => ⟨.jump, [.imm nnn.toNat]⟩
  | .call nnn => ⟨.call, [.imm nnn.toNat]⟩
  | .skipEqImm x kk => ⟨.skipEqImm, [.reg x.toNat, .imm kk.toNat]⟩
  | .skipNeqImm x kk => ⟨.skipNeqImm, [.reg x.toNat, .imm kk.toNat]⟩
  | .skipEqReg x y => ⟨.skipEqReg, [.reg x.toNat, .reg y.toNat]⟩
  | .skipNeqReg x y => ⟨.skipNeqReg, [.reg x.toNat, .reg y.toNat]⟩
  | .loadImm x kk => ⟨.loadImm, [.reg x.toNat, .imm kk.toNat]⟩
  | .addImm x kk => ⟨.addImm, [.reg x.toNat, .imm kk.toNat]⟩
  | .move x y => ⟨.move, [.reg x.toNat, .reg y.toNat]⟩
  | .bitOr x y => ⟨.bitOr, [.reg x.toNat, .reg y.toNat]⟩
  | .bitAnd x y => ⟨.bitAnd, [.reg x.toNat, .reg y.toNat]⟩
  | .bitXor x y => ⟨.bitXor, [.reg x.toNat, .reg y.toNat]⟩
  | .add x y => ⟨.add, [.reg x.toNat, .reg y.toNat]⟩
  | .sub x y => ⟨.sub, [.reg x.toNat, .reg y.toNat]⟩
  | .shr x => ⟨.shr, [.reg x.toNat]⟩
  | .subn x y => ⟨.subn, [.reg x.toNat, .reg y.toNat]⟩
  | .shl x => ⟨.shl, [.reg x.toNat]⟩
  | .setIndex nnn => ⟨.setIndex, [.imm nnn.toNat]⟩
  | .jumpOffset nnn => ⟨.jumpOffset, [.imm nnn.toNat]⟩
  | .random x kk => ⟨.random, [.reg x.toNat, .imm kk.toNat]⟩
  | .draw x y n => ⟨.draw, [.reg x.toNat, .reg y.toNat, .imm n.toNat]⟩
  | .skipIfKey x => ⟨.skipIfKey, [.reg x.toNat]⟩
  | .skipIfNotKey x => ⟨.skipIfNotKey, [.reg x.toNat]⟩
  | .getDelay x => ⟨.getDelay, [.reg x.toNat]⟩
  | .waitKey x => ⟨.waitKey, [.reg x.toNat]⟩
  | .setDelay x => ⟨.setDelay, [.reg x.toNat]⟩
  | .setSound x => ⟨.setSound, [.reg x.toNat]⟩
  | .addIndex x => ⟨.addIndex, [.reg x.toNat]⟩
  | .fontAddress x => ⟨.fontAddress, [.reg x.toNat]⟩
  | .storeBcd x => ⟨.storeBcd, [.reg x.toNat]⟩
  | .storeRegs x => ⟨.storeRegs, [.reg x.toNat]⟩
  | .loadRegs x => ⟨.loadRegs, [.reg x.toNat]⟩

/-- An instruction is well-formed when an assembler accepts the line it is written as. -/
def Instr.wellFormed (i : Instr) : Bool := i.line.wellFormed

end Sys2Proof
end

