-- ==== Sys2Proof/Decode.lean ====
section
/-! DEFINITION. The decoder of 30_encoding R83 to R95, total on any word and on any bytes, and after it the encoder, the
table of R90 as masks and patterns, and the assembler of R96. -/

namespace Sys2Proof

/-! ## Fields (R83) -/

/-- `w[15:12]`. -/
def fieldGroup (w : Word) : Nibble := w.extractLsb' 12 4
/-- `w[11:8]`. -/
def fieldX (w : Word) : RegId := w.extractLsb' 8 4
/-- `w[7:4]`. -/
def fieldY (w : Word) : RegId := w.extractLsb' 4 4
/-- `w[3:0]`. -/
def fieldN (w : Word) : Nibble := w.extractLsb' 0 4
/-- `w[7:0]`. -/
def fieldKk (w : Word) : Byte := w.extractLsb' 0 8
/-- `w[11:0]`. -/
def fieldNnn (w : Word) : Addr := w.extractLsb' 0 12

/-! ## The decoder (R88) -/

/-- Group 0: the low byte selects (R87). -/
def decodeGroup0 (w : Word) : Option Instr :=
  match (fieldKk w).toNat with
  | 0xE0 => some .clearScreen
  | 0xEE => some .ret
  | _ => none

/-- Group 8: the low nibble selects (R87). The `y` field of shr and shl is not looked at (R95). -/
def decodeGroup8 (w : Word) : Option Instr :=
  match (fieldN w).toNat with
  | 0x0 => some (.move (fieldX w) (fieldY w))
  | 0x1 => some (.bitOr (fieldX w) (fieldY w))
  | 0x2 => some (.bitAnd (fieldX w) (fieldY w))
  | 0x3 => some (.bitXor (fieldX w) (fieldY w))
  | 0x4 => some (.add (fieldX w) (fieldY w))
  | 0x5 => some (.sub (fieldX w) (fieldY w))
  | 0x6 => some (.shr (fieldX w))
  | 0x7 => some (.subn (fieldX w) (fieldY w))
  | 0xE => some (.shl (fieldX w))
  | _ => none

/-- Group E: the low byte selects (R87). -/
def decodeGroupE (w : Word) : Option Instr :=
  match (fieldKk w).toNat with
  | 0x9E => some (.skipIfKey (fieldX w))
  | 0xA1 => some (.skipIfNotKey (fieldX w))
  | _ => none

/-- Group F: the low byte selects (R87). -/
def decodeGroupF (w : Word) : Option Instr :=
  match (fieldKk w).toNat with
  | 0x07 => some (.getDelay (fieldX w))
  | 0x0A => some (.waitKey (fieldX w))
  | 0x15 => some (.setDelay (fieldX w))
  | 0x18 => some (.setSound (fieldX w))
  | 0x1E => some (.addIndex (fieldX w))
  | 0x29 => some (.fontAddress (fieldX w))
  | 0x33 => some (.storeBcd (fieldX w))
  | 0x55 => some (.storeRegs (fieldX w))
  | 0x65 => some (.loadRegs (fieldX w))
  | _ => none

/-- The instruction a word selects, `none` where no row of R90 matches it (R92). The register skips of groups 5 and 9
do not look at the low nibble (R91). -/
def decodeWord (w : Word) : Option Instr :=
  match (fieldGroup w).toNat with
  | 0x0 => decodeGroup0 w
  | 0x1 => some (.jump (fieldNnn w))
  | 0x2 => some (.call (fieldNnn w))
  | 0x3 => some (.skipEqImm (fieldX w) (fieldKk w))
  | 0x4 => some (.skipNeqImm (fieldX w) (fieldKk w))
  | 0x5 => some (.skipEqReg (fieldX w) (fieldY w))
  | 0x6 => some (.loadImm (fieldX w) (fieldKk w))
  | 0x7 => some (.addImm (fieldX w) (fieldKk w))
  | 0x8 => decodeGroup8 w
  | 0x9 => some (.skipNeqReg (fieldX w) (fieldY w))
  | 0xA => some (.setIndex (fieldNnn w))
  | 0xB => some (.jumpOffset (fieldNnn w))
  | 0xC => some (.random (fieldX w) (fieldKk w))
  | 0xD => some (.draw (fieldX w) (fieldY w) (fieldN w))
  | 0xE => decodeGroupE w
  | 0xF => decodeGroupF w
  | _ => none

/-- Why bytes do not decode: the word is unrecognised (R92), or fewer than the two bytes of an instruction are there (R82). -/
inductive DecodeError where
  | unrecognized (w : Word)
  | tooShort
  deriving DecidableEq, Repr

/-- Decode from bytes in address order: the byte at the lower address is bits 15:8 (R59). The answer carries the rest. -/
def decode : List Byte → Except DecodeError (Instr × List Byte)
  | hi :: lo :: rest =>
    match decodeWord (hi ++ lo) with
    | some i => .ok (i, rest)
    | none => .error (.unrecognized (hi ++ lo))
  | [_] => .error .tooShort
  | [] => .error .tooShort

/-! ## The encoder (R84, R90): the canonical words, with the bits decode does not examine 0 (R96) -/

/-- Format A: `group`, `nnn`. -/
def packA (g : Nibble) (nnn : Addr) : Word := g ++ nnn
/-- Formats Z, XK and XD: `group`, `x`, low byte. -/
def packXK (g : Nibble) (x : RegId) (kk : Byte) : Word := g ++ x ++ kk
/-- Formats XY, XYD and XYN: `group`, `x`, `y`, low nibble. -/
def packXYN (g : Nibble) (x y : RegId) (n : Nibble) : Word := g ++ x ++ y ++ n

/-- The word a toolchain emits for an instruction. -/
def encode : Instr → Word
  | .clearScreen => packXK 0x0 0x0 0xE0
  | .ret => packXK 0x0 0x0 0xEE
  | .jump nnn => packA 0x1 nnn
  | .call nnn => packA 0x2 nnn
  | .skipEqImm x kk => packXK 0x3 x kk
  | .skipNeqImm x kk => packXK 0x4 x kk
  | .skipEqReg x y => packXYN 0x5 x y 0x0
  | .skipNeqReg x y => packXYN 0x9 x y 0x0
  | .loadImm x kk => packXK 0x6 x kk
  | .addImm x kk => packXK 0x7 x kk
  | .move x y => packXYN 0x8 x y 0x0
  | .bitOr x y => packXYN 0x8 x y 0x1
  | .bitAnd x y => packXYN 0x8 x y 0x2
  | .bitXor x y => packXYN 0x8 x y 0x3
  | .add x y => packXYN 0x8 x y 0x4
  | .sub x y => packXYN 0x8 x y 0x5
  | .shr x => packXYN 0x8 x 0x0 0x6
  | .subn x y => packXYN 0x8 x y 0x7
  | .shl x => packXYN 0x8 x 0x0 0xE
  | .setIndex nnn => packA 0xA nnn
  | .jumpOffset nnn => packA 0xB nnn
  | .random x kk => packXK 0xC x kk
  | .draw x y n => packXYN 0xD x y n
  | .skipIfKey x => packXK 0xE x 0x9E
  | .skipIfNotKey x => packXK 0xE x 0xA1
  | .getDelay x => packXK 0xF x 0x07
  | .waitKey x => packXK 0xF x 0x0A
  | .setDelay x => packXK 0xF x 0x15
  | .setSound x => packXK 0xF x 0x18
  | .addIndex x => packXK 0xF x 0x1E
  | .fontAddress x => packXK 0xF x 0x29
  | .storeBcd x => packXK 0xF x 0x33
  | .storeRegs x => packXK 0xF x 0x55
  | .loadRegs x => packXK 0xF x 0x65

/-- The two bytes of an instruction in address order (R59). -/
def wordBytes (w : Word) : List Byte := [w.extractLsb' 8 8, w.extractLsb' 0 8]

/-- The bytes an instruction is stored as. -/
def encodeBytes (i : Instr) : List Byte := wordBytes (encode i)

/-! ## The opcode map as the table gives it (R90): `w` is the row's when `w &&& mask = pattern` -/

/-- The "match" column of R90. -/
def Op.pattern : Op → Word
  | .clearScreen => 0x00E0
  | .ret => 0x00EE
  | .jump => 0x1000
  | .call => 0x2000
  | .skipEqImm => 0x3000
  | .skipNeqImm => 0x4000
  | .skipEqReg => 0x5000
  | .skipNeqReg => 0x9000
  | .loadImm => 0x6000
  | .addImm => 0x7000
  | .move => 0x8000
  | .bitOr => 0x8001
  | .bitAnd => 0x8002
  | .bitXor => 0x8003
  | .add => 0x8004
  | .sub => 0x8005
  | .shr => 0x8006
  | .subn => 0x8007
  | .shl => 0x800E
  | .setIndex => 0xA000
  | .jumpOffset => 0xB000
  | .random => 0xC000
  | .draw => 0xD000
  | .skipIfKey => 0xE09E
  | .skipIfNotKey => 0xE0A1
  | .getDelay => 0xF007
  | .waitKey => 0xF00A
  | .setDelay => 0xF015
  | .setSound => 0xF018
  | .addIndex => 0xF01E
  | .fontAddress => 0xF029
  | .storeBcd => 0xF033
  | .storeRegs => 0xF055
  | .loadRegs => 0xF065

/-- The "mask" column of R90. -/
def Op.mask : Op → Word
  | .clearScreen => 0xF0FF
  | .ret => 0xF0FF
  | .jump => 0xF000
  | .call => 0xF000
  | .skipEqImm => 0xF000
  | .skipNeqImm => 0xF000
  | .skipEqReg => 0xF000
  | .skipNeqReg => 0xF000
  | .loadImm => 0xF000
  | .addImm => 0xF000
  | .move => 0xF00F
  | .bitOr => 0xF00F
  | .bitAnd => 0xF00F
  | .bitXor => 0xF00F
  | .add => 0xF00F
  | .sub => 0xF00F
  | .shr => 0xF00F
  | .subn => 0xF00F
  | .shl => 0xF00F
  | .setIndex => 0xF000
  | .jumpOffset => 0xF000
  | .random => 0xF000
  | .draw => 0xF000
  | .skipIfKey => 0xF0FF
  | .skipIfNotKey => 0xF0FF
  | .getDelay => 0xF0FF
  | .waitKey => 0xF0FF
  | .setDelay => 0xF0FF
  | .setSound => 0xF0FF
  | .addIndex => 0xF0FF
  | .fontAddress => 0xF0FF
  | .storeBcd => 0xF0FF
  | .storeRegs => 0xF0FF
  | .loadRegs => 0xF0FF

/-- The bits that decode does not examine, the table's "ignored_bits" (R95). -/
def Op.ignored : Op → Word
  | .clearScreen | .ret => 0x0F00
  | .skipEqReg | .skipNeqReg => 0x000F
  | .shr | .shl => 0x00F0
  | .jump | .call | .skipEqImm | .skipNeqImm
  | .loadImm | .addImm | .move | .bitOr | .bitAnd | .bitXor | .add | .sub
  | .subn | .setIndex | .jumpOffset | .random | .draw | .skipIfKey | .skipIfNotKey | .getDelay | .waitKey
  | .setDelay | .setSound | .addIndex | .fontAddress | .storeBcd | .storeRegs | .loadRegs => 0

/-! ## The assembler (R96) -/

/-- The instruction a line stands for. An operand list of the wrong shape stands for none. -/
def Line.read (l : Line) : Option Instr :=
  match l.op, l.operands with
  | .clearScreen, [] => some .clearScreen
  | .ret, [] => some .ret
  | .jump, [.imm nnn] => some (.jump (BitVec.ofNat 12 nnn))
  | .call, [.imm nnn] => some (.call (BitVec.ofNat 12 nnn))
  | .skipEqImm, [.reg x, .imm kk] => some (.skipEqImm (BitVec.ofNat 4 x) (BitVec.ofNat 8 kk))
  | .skipNeqImm, [.reg x, .imm kk] => some (.skipNeqImm (BitVec.ofNat 4 x) (BitVec.ofNat 8 kk))
  | .skipEqReg, [.reg x, .reg y] => some (.skipEqReg (BitVec.ofNat 4 x) (BitVec.ofNat 4 y))
  | .skipNeqReg, [.reg x, .reg y] => some (.skipNeqReg (BitVec.ofNat 4 x) (BitVec.ofNat 4 y))
  | .loadImm, [.reg x, .imm kk] => some (.loadImm (BitVec.ofNat 4 x) (BitVec.ofNat 8 kk))
  | .addImm, [.reg x, .imm kk] => some (.addImm (BitVec.ofNat 4 x) (BitVec.ofNat 8 kk))
  | .move, [.reg x, .reg y] => some (.move (BitVec.ofNat 4 x) (BitVec.ofNat 4 y))
  | .bitOr, [.reg x, .reg y] => some (.bitOr (BitVec.ofNat 4 x) (BitVec.ofNat 4 y))
  | .bitAnd, [.reg x, .reg y] => some (.bitAnd (BitVec.ofNat 4 x) (BitVec.ofNat 4 y))
  | .bitXor, [.reg x, .reg y] => some (.bitXor (BitVec.ofNat 4 x) (BitVec.ofNat 4 y))
  | .add, [.reg x, .reg y] => some (.add (BitVec.ofNat 4 x) (BitVec.ofNat 4 y))
  | .sub, [.reg x, .reg y] => some (.sub (BitVec.ofNat 4 x) (BitVec.ofNat 4 y))
  | .shr, [.reg x] => some (.shr (BitVec.ofNat 4 x))
  | .subn, [.reg x, .reg y] => some (.subn (BitVec.ofNat 4 x) (BitVec.ofNat 4 y))
  | .shl, [.reg x] => some (.shl (BitVec.ofNat 4 x))
  | .setIndex, [.imm nnn] => some (.setIndex (BitVec.ofNat 12 nnn))
  | .jumpOffset, [.imm nnn] => some (.jumpOffset (BitVec.ofNat 12 nnn))
  | .random, [.reg x, .imm kk] => some (.random (BitVec.ofNat 4 x) (BitVec.ofNat 8 kk))
  | .draw, [.reg x, .reg y, .imm n] => some (.draw (BitVec.ofNat 4 x) (BitVec.ofNat 4 y) (BitVec.ofNat 4 n))
  | .skipIfKey, [.reg x] => some (.skipIfKey (BitVec.ofNat 4 x))
  | .skipIfNotKey, [.reg x] => some (.skipIfNotKey (BitVec.ofNat 4 x))
  | .getDelay, [.reg x] => some (.getDelay (BitVec.ofNat 4 x))
  | .waitKey, [.reg x] => some (.waitKey (BitVec.ofNat 4 x))
  | .setDelay, [.reg x] => some (.setDelay (BitVec.ofNat 4 x))
  | .setSound, [.reg x] => some (.setSound (BitVec.ofNat 4 x))
  | .addIndex, [.reg x] => some (.addIndex (BitVec.ofNat 4 x))
  | .fontAddress, [.reg x] => some (.fontAddress (BitVec.ofNat 4 x))
  | .storeBcd, [.reg x] => some (.storeBcd (BitVec.ofNat 4 x))
  | .storeRegs, [.reg x] => some (.storeRegs (BitVec.ofNat 4 x))
  | .loadRegs, [.reg x] => some (.loadRegs (BitVec.ofNat 4 x))
  | _, _ => none

/-- The word of a line, refused where a value does not fit (R96). -/
def assemble (l : Line) : Option Word :=
  if l.wellFormed then l.read.map encode else none

/-! ## The host's reading of the table -/

/-- The bytes of an instruction whose table bits are `w`: CORE's instructions are one 16-bit word (R82), stored with its high
byte first (R59). Bits at `nbits` and above are 0. -/
def layOut (nbits w : Nat) : List Byte := wordBytes (BitVec.ofNat 16 (w % 2 ^ nbits))

/-- What the decoder reads from an instruction whose bits are `w`. -/
def decodeTableWord (nbits w : Nat) : Option Instr :=
  match decode (layOut nbits w) with
  | .ok (i, _) => some i
  | .error _ => none

end Sys2Proof
end

