-- ==== Sys2Proof/Config.lean ====
section
/-! DEFINITION. The open parameters of 00_scope R7 as plain data, and the free values: what the host's input ports
answer when nothing has been laid out for them (60_exceptions R230, R234 to R237). -/

namespace Sys2Proof

/-- The parameters that are read while the machine runs (R7). They are fixed for a run (R32). A state carries them, so that
a statement over all states holds for every choice of them. DESIGN CHOICE, assumption 1. -/
structure Params where
  /-- `KEYMAP` (R221), as the finite list of the mapped host symbols. A symbol that is not listed maps to `NOKEY`. -/
  keymap : List (HostSymbol × Key)
  /-- `KEY_DECAY_POLLS` (R222). -/
  keyDecayPolls : Nat
  /-- `INSTR_PERIOD` in clock units (R211). -/
  instrPeriod : Nat
  /-- `TIMER_PERIOD` in clock units (R212). -/
  timerPeriod : Nat
  /-- `CLK_MOD` (R235), `none` where the clock never rolls over. -/
  clkMod : Option Nat
  deriving DecidableEq, Repr

/-- The constraints of R7 and of 92_eei_decisions' table of parameters: `KEY_DECAY_POLLS` and `CLK_MOD` are positive. -/
def Params.valid (p : Params) : Bool :=
  decide (1 ≤ p.keyDecayPolls) && p.clkMod.all (fun m => decide (1 ≤ m))

/-- The defaults of R7. `KEYMAP` has none there: host symbols 0 to 15 are named so that they stand for the
keys 0 to 15. DESIGN CHOICE, assumption 2. -/
def Params.default : Params where
  keymap := [(0, 0x0), (1, 0x1), (2, 0x2), (3, 0x3), (4, 0x4), (5, 0x5), (6, 0x6), (7, 0x7),
             (8, 0x8), (9, 0x9), (10, 0xA), (11, 0xB), (12, 0xC), (13, 0xD), (14, 0xE), (15, 0xF)]
  keyDecayPolls := 1024
  instrPeriod := 977
  timerPeriod := 16667
  clkMod := none

/-- Everything of R7 that a run is started with: the run's parameters, `FONT` (R33) and `IMAGE` (R231). -/
structure Config where
  params : Params
  font   : Vector Byte 80
  image  : List Byte
  deriving DecidableEq, Repr

/-- What the `terminate` and `clock` ports carry at one poll iteration (R235, R237). `wall` is the wall clock's own
count. What CORE samples of it is `clockRead` (Machine/Timing.lean). -/
structure Sample where
  terminate : Bool
  wall      : Int
  deriving DecidableEq, Repr, Inhabited

/-- FREE VALUE, assumption 3: what the `terminate` and `clock` ports carry at the n-th poll iteration for which the
state lays out no sample. No body, so a proof holds for every sequence of samples (R235, R237). -/
opaque Config.freeSample : Nat → Sample

/-- FREE VALUE, assumption 3: what the host key source answers to the n-th poll for which the state lays out no answer:
`none` is "nothing new this poll" (R234). -/
opaque Config.freeKey : Nat → Option HostSymbol

/-- FREE VALUE, assumption 3: the n-th byte of the random port for which the state lays out no byte (R236, entry U7). -/
opaque Config.freeRandom : Nat → Byte

end Sys2Proof
end

