-- ==== Sys2Proof/Machine/State.lean ====
section
/-! DEFINITION. The state of CORE (10_state R20 to R37) as plain data, the reasons a step can stop, and the state after reset
(R34, R260). -/

namespace Sys2Proof.Machine

/-- The five kinds of fatal error, exhaustively (60_exceptions R200). -/
inductive FatalKind where
  /-- No row of R90 matches the fetched word (R92). -/
  | unrecognizedOpcode
  /-- call with `sp = 15` (R112). -/
  | stackOverflow
  /-- return with `sp = 0` (R110). -/
  | stackUnderflow
  /-- An effective address above 4095 (R57, R81). -/
  | memoryOutOfRange
  /-- The program image does not fit, at reset (R263). -/
  | imageTooLarge
  deriving DecidableEq, Repr

/-- The record `(kind, pc0, w, info)` that the fatal stop writes (R29, R206). `none` is the spec's "empty". -/
structure FatalRecord where
  kind : FatalKind
  /-- The address of the faulting instruction, empty for `imageTooLarge`. -/
  pc0  : Option Word
  /-- Its word, empty where the fetch itself failed and for `imageTooLarge`. -/
  w    : Option Word
  /-- The offending address or value named in the kind's row of R200. -/
  info : Nat
  deriving DecidableEq, Repr

/-- Memory as the list of the cells that differ from what an unlisted address reads as (`unlisted` in Machine/Ops.lean), in
rising order of address. -/
abbrev Memory := List Host.Cell

/-- What the host's input ports will answer, the model's own fields (R36 puts the host's queues outside CORE). Each list is
what is laid out for the port, oldest first. When it is used up, the port answers the free value of Config at the
port's counter. DESIGN CHOICE, assumption 3. -/
structure Inputs where
  /-- `terminate` and `clock`, one entry per poll iteration (R235, R237). -/
  samples  : List Sample
  /-- `key`, one entry per poll of the host key source, `none` for "nothing new this poll" (R234). -/
  keys     : List (Option HostSymbol)
  /-- `random`, one byte per executed random (R236). -/
  randoms  : List Byte
  /-- Free samples taken so far. -/
  sampleNo : Nat
  /-- Free key answers taken so far. -/
  keyNo    : Nat
  /-- Free random bytes taken so far. -/
  randomNo : Nat
  deriving DecidableEq, Repr

/-- The state of CORE. -/
structure State where
  /-- `V[0]` to `V[15]`. The last one is `VF`, the flag (R21, R22). -/
  v      : Vector Byte 16
  /-- The program counter. Between steps it is the address of the next instruction (R23). -/
  pc     : Word
  /-- `I`, the index register (R24). -/
  idx    : Word
  /-- The slot most recently pushed, 0 for an empty stack (R25). -/
  sp     : BitVec 4
  /-- The call stack (R25). -/
  stack  : Vector Word 16
  /-- `delay_timer` (R28). -/
  dt     : Byte
  /-- `sound_timer` (R28). -/
  st     : Byte
  /-- The 4096 bytes of memory (R26, R50). -/
  mem    : Memory
  /-- The framebuffer (R27). -/
  fb     : Frame
  /-- Keypad Input Adapter: the stored key, `none` for `NOKEY` (R30, R186). -/
  lastKey        : Option Key
  /-- Keypad Input Adapter: consecutive empty polls (R30). -/
  pollsSinceSeen : Nat
  /-- Timing Controller: when the instruction trigger last fired (R31). -/
  lastInstr      : Int
  /-- Timing Controller: when the timer trigger last fired (R31). -/
  lastTimer      : Int
  /-- Status record (R29). Together with the next two fields it is the status port (R237). -/
  halted   : Bool
  /-- Status record: `fault` (R29). -/
  fatal    : Option FatalRecord
  /-- Status record: `exit_code` (R29, R208). -/
  exitCode : Option Nat
  /-- The display port: the framebuffer as last presented, `none` before the first timer tick (R232). -/
  shown    : Option Frame
  /-- The tone port. Between ticks it holds its last value (R233). -/
  tone     : Bool
  /-- The open parameters, fixed for the run (R7, R32). No step changes them. DESIGN CHOICE, assumption 1. -/
  params   : Params
  /-- The model's own: what the input ports will answer. DESIGN CHOICE, assumption 3. -/
  inputs   : Inputs
  deriving DecidableEq, Repr

/-- The reasons a step can stop outside CORE's own state: none. Every fatal error of R200 is taken as the fatal stop of R206,
which is a next state (`halted`, `fault`, `exit_code` written), and a poll iteration of a halted CORE returns with nothing
changed (R240). Safe: no behaviour of the spec is cut off. -/
inductive Fault where
  deriving DecidableEq, Repr

/-- The reasons an instruction is refused. -/
inductive Refusal where
  /-- Raised by an arm of exec whose instruction has no meaning yet. Safe: nothing can be proved of what it does. No arm
  raises it. -/
  | notModelled (mnemonic : String)
  deriving DecidableEq, Repr

/-- What one instruction or one step answers. -/
abbrev Outcome := Host.Outcome State Fault Refusal

/-- Nothing laid out for the ports, no free value taken yet. DESIGN CHOICE, assumption 3. -/
def Inputs.none : Inputs :=
  { samples := [], keys := [], randoms := [], sampleNo := 0, keyNo := 0, randomNo := 0 }

/-- The state right after reset (R34, R260), with the default parameters of R7 and an empty image: memory lists nothing, so
addresses 0 to 79 read as the font and all others as 0. -/
def State.reset : State where
  v := Vector.replicate 16 0
  pc := 0x200
  idx := 0
  sp := 0
  stack := Vector.replicate 16 0
  dt := 0
  st := 0
  mem := []
  fb := Vector.replicate 32 0
  lastKey := Option.none
  pollsSinceSeen := 0
  lastInstr := 0
  lastTimer := 0
  halted := false
  fatal := Option.none
  exitCode := Option.none
  shown := Option.none
  tone := false
  params := Params.default
  inputs := Inputs.none

end Sys2Proof.Machine
end

