-- ==== Sys2Proof/Machine/Ops.lean ====
section
/-! DEFINITION. The named operations over memory, registers, framebuffer and the input ports (00_scope R9, 20_memory), and
the fatal stop, CORE's one trap (60_exceptions R206). There is no return from it (R207): only reset clears it. -/

namespace Sys2Proof.Machine

/-! ## Memory (R50 to R66) -/

/-- The default of `FONT`: 16 glyphs of 5 bytes, the glyph of digit d at address 5d (R33). PRESUMED, assumption 4. -/
def fontTable : Vector Byte 80 := #v[
  0xF0, 0x90, 0x90, 0x90, 0xF0,
  0x20, 0x60, 0x20, 0x20, 0x70,
  0xF0, 0x10, 0xF0, 0x80, 0xF0,
  0xF0, 0x10, 0xF0, 0x10, 0xF0,
  0x90, 0x90, 0xF0, 0x10, 0x10,
  0xF0, 0x80, 0xF0, 0x10, 0xF0,
  0xF0, 0x80, 0xF0, 0x90, 0xF0,
  0xF0, 0x10, 0x20, 0x40, 0x40,
  0xF0, 0x90, 0xF0, 0x90, 0xF0,
  0xF0, 0x90, 0xF0, 0x10, 0xF0,
  0xF0, 0x90, 0xF0, 0x90, 0x90,
  0xE0, 0x90, 0xE0, 0x90, 0xE0,
  0xF0, 0x80, 0x80, 0x80, 0xF0,
  0xE0, 0x90, 0x90, 0x90, 0xE0,
  0xF0, 0x80, 0xF0, 0x80, 0xF0,
  0xF0, 0x80, 0xF0, 0x80, 0x80]

/-- What an address that memory does not list reads as: its reset contents, the font at 0 to 79 and 0 above (R34, R51). -/
def unlisted (a : Nat) : Byte := fontTable.toList.getD a 0

/-- The byte at an address. Only addresses 0 to 4095 exist: `Memory.read` is the access with the range check. -/
def Memory.byte : Memory → Nat → Byte
  | [], a => unlisted a
  | (k, b) :: rest, a => if k = a then b else Memory.byte rest a

/-- Memory with the byte at address `a` replaced. Writing what an unlisted address reads as leaves the address unlisted. -/
def Memory.put : Memory → Nat → Byte → Memory
  | [], a, v => if v = unlisted a then [] else [(a, v)]
  | (k, b) :: rest, a, v =>
    if a < k then (if v = unlisted a then (k, b) :: rest else (a, v) :: (k, b) :: rest)
    else if a = k then (if v = unlisted a then rest else (a, v) :: rest)
    else (k, b) :: Memory.put rest a v

/-- The canonical form: addresses rise strictly and exist, and no entry equals what its address reads as unlisted. -/
def Memory.wf : Memory → Bool
  | [] => true
  | (k, b) :: rest =>
    decide (k < 4096) && decide (b ≠ unlisted k) && rest.all (fun c => decide (k < c.1)) && Memory.wf rest

/-- `MemRead(a, 1)`: nothing where `a > 4095` (R55). -/
def Memory.read (m : Memory) (a : Nat) : Option Byte :=
  if a > 4095 then none else some (m.byte a)

/-- Bytes stored at ascending addresses from `a`: the loader's copy (R262). -/
def Memory.putList : Memory → Nat → List Byte → Memory
  | m, _, [] => m
  | m, a, b :: rest => Memory.putList (m.put a b) (a + 1) rest

/-- The smallest out-of-range address among `base`, ..., `base + count - 1`, summed in the integers with no wrap (R54, R57). -/
def outOfRange (base count : Nat) : Option Nat :=
  if 1 ≤ count ∧ 4095 < base + (count - 1) then some (max base 4096) else none

/-! ## Registers (R21, R25) -/

/-- `V[r]`. -/
def State.reg (s : State) (r : RegId) : Byte := s.v[r.toNat]'r.isLt

/-- `V[r] <- b`. -/
def State.setReg (s : State) (r : RegId) (b : Byte) : State := { s with v := s.v.set r.toNat b r.isLt }

/-- `stack[k]`. -/
def State.slot (s : State) (k : BitVec 4) : Word := s.stack[k.toNat]'k.isLt

/-- `sp <- sp + 1; stack[sp] <- a` (R112), after the check that `sp` is not 15. -/
def State.push (s : State) (a : Word) : State :=
  { s with sp := s.sp + 1, stack := s.stack.set (s.sp + 1).toNat a (s.sp + 1).isLt }

/-! ## The framebuffer (R27) -/

/-- Row `y`, empty beyond the last one. -/
def Frame.row (f : Frame) (y : Nat) : PixelRow := f[y]?.getD 0

/-- `fb[x, y]` for a column 0 to 63 and a row 0 to 31. -/
def Frame.pixel (f : Frame) (x y : Nat) : Bool := (Frame.row f y).getLsbD x

/-- `fb[x, y] <- 1 - fb[x, y]`, the XOR of one drawn bit (R171). -/
def Frame.flip (f : Frame) (x y : Nat) : Frame := f.setIfInBounds y (Frame.row f y ^^^ BitVec.twoPow 64 x)

/-- All pixels 0 (R170). -/
def Frame.blank : Frame := Vector.replicate 32 0

/-- The 2048 cells in the flat order of the display port, `index = y * 64 + x` (R232). -/
def Frame.flat (f : Frame) : List Bool := (List.range 2048).map fun k => Frame.pixel f (k % 64) (k / 64)

/-! ## Input ports (R230) -/

/-- The next entry of the `terminate` and `clock` ports. -/
def Inputs.nextSample (p : Inputs) : Sample :=
  match p.samples with
  | x :: _ => x
  | [] => Config.freeSample p.sampleNo

/-- The ports after it. -/
def Inputs.dropSample (p : Inputs) : Inputs :=
  match p.samples with
  | _ :: rest => { p with samples := rest }
  | [] => { p with sampleNo := p.sampleNo + 1 }

/-- The next answer of the `key` port. -/
def Inputs.nextKey (p : Inputs) : Option HostSymbol :=
  match p.keys with
  | x :: _ => x
  | [] => Config.freeKey p.keyNo

/-- The ports after it. -/
def Inputs.dropKey (p : Inputs) : Inputs :=
  match p.keys with
  | _ :: rest => { p with keys := rest }
  | [] => { p with keyNo := p.keyNo + 1 }

/-- The next byte of the `random` port. -/
def Inputs.nextRandom (p : Inputs) : Byte :=
  match p.randoms with
  | x :: _ => x
  | [] => Config.freeRandom p.randomNo

/-- The ports after it. -/
def Inputs.dropRandom (p : Inputs) : Inputs :=
  match p.randoms with
  | _ :: rest => { p with randoms := rest }
  | [] => { p with randomNo := p.randomNo + 1 }

/-- What the `terminate` and `clock` ports carry at the next poll iteration (R235, R237). -/
def State.nextSample (s : State) : Sample := s.inputs.nextSample
/-- That sample has been taken. -/
def State.dropSample (s : State) : State := { s with inputs := s.inputs.dropSample }

/-- `HostKeyPoll()`: the answer of the host key source to the next poll (R234). -/
def State.nextKey (s : State) : Option HostSymbol := s.inputs.nextKey
/-- That poll has been made. -/
def State.dropKey (s : State) : State := { s with inputs := s.inputs.dropKey }

/-- `RandomByte()`: the next byte of the random port (R236). -/
def State.nextRandom (s : State) : Byte := s.inputs.nextRandom
/-- That byte has been drawn. -/
def State.dropRandom (s : State) : State := { s with inputs := s.inputs.dropRandom }

/-! ## Fetch (R59, R81) -/

/-- The big-endian word at `pc` and `pc + 1`, nothing where either byte is out of range. -/
def State.fetchWord (s : State) : Option Word :=
  match s.mem.read s.pc.toNat, s.mem.read (s.pc.toNat + 1) with
  | some hi, some lo => some (hi ++ lo)
  | some _, none => none
  | none, _ => none

/-! ## The fatal stop (R205 to R208) -/

/-- The code of a kind, which is also the exit code of its stop (R200, R208). -/
def FatalKind.code : FatalKind → Nat
  | .unrecognizedOpcode => 1
  | .stackOverflow => 2
  | .stackUnderflow => 3
  | .memoryOutOfRange => 4
  | .imageTooLarge => 5

/-- Write the status record: `fault`, `exit_code`, `halted`, and nothing else (R206). -/
def State.fatalStop (s : State) (r : FatalRecord) : State :=
  { s with halted := true, fatal := some r, exitCode := some r.kind.code }

/-- `raise Fatal(kind, info)` from an instruction step that began in `s`, whose `pc` is still `pc0` (R205). The recorded word
is the one at `pc0`, empty where the fetch itself failed. -/
def State.raise (s : State) (kind : FatalKind) (info : Nat) : Outcome :=
  .next (s.fatalStop { kind := kind, pc0 := some s.pc, w := s.fetchWord, info := info })

/-- Bounds before effects (R57): an access to `count` bytes from `I` upward, then `ok`, or the fatal stop at the smallest
out-of-range address with nothing else written. -/
def State.withRange (s : State) (count : Nat) (ok : Outcome) : Outcome :=
  match outOfRange s.idx.toNat count with
  | some a => s.raise .memoryOutOfRange a
  | none => ok

end Sys2Proof.Machine
end

