-- ==== Sys2Proof/Machine/Boot.lean ====
section
/-! DEFINITION. Reset as a procedure (70_reset_and_hazards R260 to R263), for any parameters, font and program image. -/

namespace Sys2Proof.Machine

/-- The suggested parameters, the default font and an empty image (R7). -/
def Config.standard : Config := { params := Params.default, font := fontTable, image := [] }

/-- Every piece of state at its reset value, memory holding the font (steps 1 and 2 of R260). -/
def bootBlank (c : Config) : State :=
  { State.reset with params := c.params, mem := Memory.putList [] 0 c.font.toList }

/-- Reset with a program image: the image is copied to 0x200 upward, or refused with nothing copied where it does not fit
(R260, R262, R263). -/
def boot (c : Config) : State :=
  if 0x200 + c.image.length ≤ 4096 then
    { bootBlank c with mem := (bootBlank c).mem.putList 0x200 c.image }
  else (bootBlank c).fatalStop { kind := .imageTooLarge, pc0 := none, w := none, info := c.image.length }

end Sys2Proof.Machine
end

