-- ==== Sys2Proof/Machine/Operands.lean ====
section
/-! DEFINITION. The operand forms (30_encoding R85, 20_memory R54, 00_scope R11): immediates, the program counter's
advance and skip, the loops over `I + i`. A meaning gets the state in which `pc` is still `pc0`. -/

namespace Sys2Proof.Machine

/-- `zext_16(nnn)` (R85). -/
def zextAddr (nnn : Addr) : Word := nnn.setWidth 16

/-- `zext_16` of a byte. -/
def zextByte (b : Byte) : Word := b.setWidth 16

/-- `zext_8` of a key (R180). -/
def zextKey (k : Key) : Byte := k.setWidth 8

/-- The advance of fetch: `pc <- pc0 + 2` (R81). -/
def State.advance (s : State) : State := { s with pc := s.pc + 2 }

/-- The advance of fetch and, where `c` holds, one instruction more (R118). -/
def State.skipIf (s : State) (c : Bool) : State := { s with pc := if c then s.pc + 4 else s.pc + 2 }

/-- Control transfer to `a` (R118: the target is not checked here). -/
def State.jumpTo (s : State) (a : Word) : State := { s with pc := a }

/-- `font_table_address`: 5 times the low nibble (R152). -/
def glyphAddress (b : Byte) : Word := BitVec.ofNat 16 (5 * (b.toNat % 16))

/-- The hundreds, tens and ones of a byte (R153). -/
def bcdDigits (b : Byte) : List Byte :=
  [BitVec.ofNat 8 (b.toNat / 100), BitVec.ofNat 8 (b.toNat / 10 % 10), BitVec.ofNat 8 (b.toNat % 10)]

/-- `MemWrite(base + i, 1, V[i])` for the first `n` registers, in ascending order (R154). -/
def storeRange (s : State) (base : Nat) : Nat → Memory
  | 0 => s.mem
  | k + 1 => (storeRange s base k).put (base + k) (s.reg (BitVec.ofNat 4 k))

/-- `V[i] <- MemRead(base + i, 1)` for the first `n` registers, in ascending order (R155). -/
def loadRange (s : State) (base : Nat) : Nat → State
  | 0 => s
  | k + 1 => (loadRange s base k).setReg (BitVec.ofNat 4 k) (s.mem.byte (base + k))

end Sys2Proof.Machine
end

