-- ==== Sys2Proof/Machine/Flags.lean ====
section
/-! DEFINITION. The flag computations (10_state R22, 41_register_alu R142) and the two orders in which an instruction writes
its result and `VF` (R143). -/

namespace Sys2Proof.Machine

/-- `VF`, the register that is the flag (R22). -/
def flagReg : RegId := 0xF

/-- A flag as the byte that `VF` gets. -/
def flagByte (c : Bool) : Byte := if c then 1 else 0

/-- The exact sum of R136, 9 bits. -/
def exactSum (a b : Byte) : Nat := a.toNat + b.toNat

/-- Carry: the sum exceeds 255 (R136). -/
def carry (a b : Byte) : Bool := decide (255 < exactSum a b)

/-- No borrow: the minuend is at least the subtrahend (R137, R139). -/
def notBorrow (minuend subtrahend : Byte) : Bool := decide (subtrahend.toNat ≤ minuend.toNat)

/-- The bit that a right shift moves out (R138). -/
def lowBit (b : Byte) : Bool := b.getLsbD 0

/-- The bit that a left shift moves out (R140). -/
def highBit (b : Byte) : Bool := b.getLsbD 7

/-- The result is written first, then the flag: or, and, xor, add (R143). -/
def State.resultThenFlag (s : State) (x : RegId) (result : Byte) (flag : Bool) : State :=
  (s.setReg x result).setReg flagReg (flagByte flag)

/-- The flag is written. What follows reads the registers as this left them: sub, shr, subn, shl (R143). -/
def State.setFlag (s : State) (flag : Bool) : State := s.setReg flagReg (flagByte flag)

end Sys2Proof.Machine
end

