-- ==== Sys2Proof/Machine/Alu.lean ====
section
/-! DEFINITION. Register and ALU operations (41_register_alu R130 to R143). Where register 15 is an operand, the statements
of each rule run in the order written, each on the registers the one before left (R10, R143). -/

namespace Sys2Proof.Machine

/-- `load-imm X,kk` (R130). -/
def execLoadImm (x : RegId) (kk : Byte) (s : State) : Outcome := .next (s.setReg x kk).advance

/-- `add-imm X,kk` (R131), modulo 256, no flag. -/
def execAddImm (x : RegId) (kk : Byte) (s : State) : Outcome := .next (s.setReg x (s.reg x + kk)).advance

/-- `move X,Y` (R132). -/
def execMove (x y : RegId) (s : State) : Outcome := .next (s.setReg x (s.reg y)).advance

/-- `or X,Y` (R133). -/
def execBitOr (x y : RegId) (s : State) : Outcome :=
  .next (s.resultThenFlag x (s.reg x ||| s.reg y) false).advance

/-- `and X,Y` (R134). -/
def execBitAnd (x y : RegId) (s : State) : Outcome :=
  .next (s.resultThenFlag x (s.reg x &&& s.reg y) false).advance

/-- `xor X,Y` (R135). -/
def execBitXor (x y : RegId) (s : State) : Outcome :=
  .next (s.resultThenFlag x (s.reg x ^^^ s.reg y) false).advance

/-- `add X,Y` (R136). -/
def execAdd (x y : RegId) (s : State) : Outcome :=
  .next (s.resultThenFlag x (BitVec.ofNat 8 (exactSum (s.reg x) (s.reg y))) (carry (s.reg x) (s.reg y))).advance

/-- `sub X,Y` (R137): the flag first, then the difference of the registers as the flag left them. -/
def execSub (x y : RegId) (s : State) : Outcome :=
  let t := s.setFlag (notBorrow (s.reg x) (s.reg y))
  .next (t.setReg x (t.reg x - t.reg y)).advance

/-- `shr X` (R138): the flag first, then half of the register as the flag left it. -/
def execShr (x : RegId) (s : State) : Outcome :=
  let t := s.setFlag (lowBit (s.reg x))
  .next (t.setReg x (t.reg x >>> 1)).advance

/-- `subn X,Y` (R139): the flag first, then the difference of the registers as the flag left them. -/
def execSubn (x y : RegId) (s : State) : Outcome :=
  let t := s.setFlag (notBorrow (s.reg y) (s.reg x))
  .next (t.setReg x (t.reg y - t.reg x)).advance

/-- `shl X` (R140): the flag first, then twice the register as the flag left it, modulo 256. -/
def execShl (x : RegId) (s : State) : Outcome :=
  let t := s.setFlag (highBit (s.reg x))
  .next (t.setReg x (t.reg x <<< 1)).advance

/-- `random X,kk` (R141): one draw from the random port. -/
def execRandom (x : RegId) (kk : Byte) (s : State) : Outcome :=
  .next (s.dropRandom.setReg x (s.nextRandom &&& kk)).advance

end Sys2Proof.Machine
end

