-- ==== Sys2Proof/Machine/Control.lean ====
section
/-! DEFINITION. Control transfer (40_control_transfer R110 to R118): return, jump, call, the four skips, jump-offset. -/

namespace Sys2Proof.Machine

/-- `return` (R110). With an empty stack it is the fatal stop `StackUnderflow`. -/
def execRet (s : State) : Outcome :=
  if s.sp = 0 then s.raise .stackUnderflow 0
  else .next { s with pc := s.slot s.sp, sp := s.sp - 1 }

/-- `jump nnn` (R111). -/
def execJump (nnn : Addr) (s : State) : Outcome := .next (s.jumpTo (zextAddr nnn))

/-- `call nnn` (R112). The sixteenth nested call is the fatal stop `StackOverflow`. -/
def execCall (nnn : Addr) (s : State) : Outcome :=
  if s.sp = 15 then s.raise .stackOverflow 16
  else .next ((s.push (s.pc + 2)).jumpTo (zextAddr nnn))

/-- `skip-eq-imm X,kk` (R114). -/
def execSkipEqImm (x : RegId) (kk : Byte) (s : State) : Outcome := .next (s.skipIf (s.reg x == kk))

/-- `skip-neq-imm X,kk` (R115). -/
def execSkipNeqImm (x : RegId) (kk : Byte) (s : State) : Outcome := .next (s.skipIf (s.reg x != kk))

/-- `skip-eq-reg X,Y` (R116). -/
def execSkipEqReg (x y : RegId) (s : State) : Outcome := .next (s.skipIf (s.reg x == s.reg y))

/-- `skip-neq-reg X,Y` (R117). -/
def execSkipNeqReg (x y : RegId) (s : State) : Outcome := .next (s.skipIf (s.reg x != s.reg y))

/-- `jump-offset nnn` (R113). The offset is always `V[0]` and the sum is not reduced modulo 4096. -/
def execJumpOffset (nnn : Addr) (s : State) : Outcome := .next (s.jumpTo (zextAddr nnn + zextByte (s.reg 0)))

end Sys2Proof.Machine
end

