-- ==== Sys2Proof/Machine/Display.lean ====
section
/-! DEFINITION. The display operations (43_display R170 to R172). -/

namespace Sys2Proof.Machine

/-- `clear-screen` (R170). -/
def execClearScreen (s : State) : Outcome := .next { s with fb := Frame.blank }.advance

/-- The rows of a sprite of height `n` at row `oy` that are drawn: `min(n, 32 - oy)`, the rest are clipped (R171). -/
def visibleRows (n oy : Nat) : Nat := min n (32 - oy)

/-- One sprite bit at column `px`, row `py`: dropped beyond column 63, else XORed into the pixel. The Bool says
whether a pixel has been erased so far (R171). -/
def plotBit (bit : Bool) (px py : Nat) (c : Frame × Bool) : Frame × Bool :=
  if px ≤ 63 ∧ bit = true then (Frame.flip c.1 px py, c.2 || Frame.pixel c.1 px py) else c

/-- The first `n` bits of a sprite byte, bit 7 first, at columns `ox`, `ox + 1`, ... of row `py` (R171, R172). -/
def plotRow (b : Byte) (ox py : Nat) : Nat → Frame × Bool → Frame × Bool
  | 0, c => c
  | j + 1, c => plotBit (b.getLsbD (7 - j)) (ox + j) py (plotRow b ox py j c)

/-- The first `n` sprite rows, read from `base`, `base + 1`, ... (R171). -/
def plotRows (m : Memory) (base ox oy : Nat) : Nat → Frame × Bool → Frame × Bool
  | 0, c => c
  | i + 1, c => plotRow (m.byte (base + i)) ox (oy + i) 8 (plotRows m base ox oy i c)

/-- `draw X,Y,N` (R171). The origin is taken from the registers before `VF` is written. -/
def execDraw (x y : RegId) (n : Nibble) (s : State) : Outcome :=
  let ox := (s.reg x).toNat % 64
  let oy := (s.reg y).toNat % 32
  let rows := visibleRows n.toNat oy
  let drawn := plotRows s.mem s.idx.toNat ox oy rows (s.fb, false)
  s.withRange rows (.next ({ s with fb := drawn.1 }.setFlag drawn.2).advance)

end Sys2Proof.Machine
end

