-- ==== Sys2Proof/Machine/Index.lean ====
section
/-! DEFINITION. The index register and memory (42_index_memory R150 to R156). -/

namespace Sys2Proof.Machine

/-- `set-index nnn` (R150). -/
def execSetIndex (nnn : Addr) (s : State) : Outcome := .next { s with idx := zextAddr nnn }.advance

/-- `add-index X` (R151), modulo 65536, no flag. -/
def execAddIndex (x : RegId) (s : State) : Outcome := .next { s with idx := s.idx + zextByte (s.reg x) }.advance

/-- `font-address X` (R152). -/
def execFontAddress (x : RegId) (s : State) : Outcome := .next { s with idx := glyphAddress (s.reg x) }.advance

/-- `store-bcd X` (R153). -/
def execStoreBcd (x : RegId) (s : State) : Outcome :=
  s.withRange 3 (.next { s with mem := s.mem.putList s.idx.toNat (bcdDigits (s.reg x)) }.advance)

/-- `store-regs X` (R154). -/
def execStoreRegs (x : RegId) (s : State) : Outcome :=
  s.withRange (x.toNat + 1) (.next { s with mem := storeRange s s.idx.toNat (x.toNat + 1) }.advance)

/-- `load-regs X` (R155). -/
def execLoadRegs (x : RegId) (s : State) : Outcome :=
  s.withRange (x.toNat + 1) (.next (loadRange s s.idx.toNat (x.toNat + 1)).advance)

end Sys2Proof.Machine
end

