-- ==== Sys2Proof/Machine/Keypad.lean ====
section
/-! DEFINITION. The Keypad Input Adapter (60_exceptions R220 to R225) and the keypad and timer operations
(44_keypad_timers R180 to R186). -/

namespace Sys2Proof.Machine

/-- `KEYMAP(s)`: the key of a host symbol, `none` (`NOKEY`) where it is not mapped (R221). -/
def mapKey (p : Params) (sym : HostSymbol) : Option Key := p.keymap.lookup sym

/-- The stored key and the counter after the answer of one poll of the decaying read (R222). -/
def decayed (p : Params) (key : Option Key) (polls : Nat) : Option HostSymbol → Option Key × Nat
  | some sym => (mapKey p sym, 0)
  | none => if p.keyDecayPolls ≤ polls + 1 then (none, 0) else (key, polls + 1)

/-- The adapter's two registers after that answer (R222). -/
def State.decay (s : State) (e : Option HostSymbol) : State :=
  { s with lastKey := (decayed s.params s.lastKey s.pollsSinceSeen e).1
           pollsSinceSeen := (decayed s.params s.lastKey s.pollsSinceSeen e).2 }

/-- `KeyDecayRead()` (R222): one poll of the host. What it returns is `lastKey` of the state it leaves. -/
def State.keyDecayRead (s : State) : State := s.dropKey.decay s.nextKey

/-- What `KeyBlockRead()` returns (R223): one poll, and the adapter's state is neither read nor written. -/
def State.keyBlockRead (s : State) : Option Key :=
  match s.nextKey with
  | some sym => mapKey s.params sym
  | none => none

/-- A read key equals the whole byte. `NOKEY` equals nothing (R186). -/
def keyEquals (k : Option Key) (b : Byte) : Bool :=
  match k with
  | some k => zextKey k == b
  | none => false

/-- `skip-if-key X` (R180). -/
def execSkipIfKey (x : RegId) (s : State) : Outcome :=
  .next (s.keyDecayRead.skipIf (keyEquals s.keyDecayRead.lastKey (s.reg x)))

/-- `skip-if-not-key X` (R181). -/
def execSkipIfNotKey (x : RegId) (s : State) : Outcome :=
  .next (s.keyDecayRead.skipIf (!keyEquals s.keyDecayRead.lastKey (s.reg x)))

/-- `get-delay X` (R182). -/
def execGetDelay (x : RegId) (s : State) : Outcome := .next (s.setReg x s.dt).advance

/-- A key goes to `V[x]` and the instruction is done. Without one, `pc` is back at `pc0` (R183). -/
def State.acceptKey (s : State) (x : RegId) (k : Option Key) : State :=
  { s with
    v := match k with
      | some k => s.v.set x.toNat (zextKey k) x.isLt
      | none => s.v
    pc := match k with
      | some _ => s.pc + 2
      | none => s.pc }

/-- `wait-key X` (R183): one blocking-equivalent read. Without a key the same word is fetched again. -/
def execWaitKey (x : RegId) (s : State) : Outcome := .next (s.dropKey.acceptKey x s.keyBlockRead)

/-- `set-delay X` (R184). -/
def execSetDelay (x : RegId) (s : State) : Outcome := .next { s with dt := s.reg x }.advance

/-- `set-sound X` (R185). -/
def execSetSound (x : RegId) (s : State) : Outcome := .next { s with st := s.reg x }.advance

end Sys2Proof.Machine
end

