-- ==== Sys2Proof/Machine/Timing.lean ====
section
/-! DEFINITION. What stands around the instructions: the Instruction Cycle (30_encoding R80), the Timing Controller
(60_exceptions R210 to R215), host termination (R237) and the main loop (R240), and the host's way to place an instruction. -/

namespace Sys2Proof.Machine

/-- One Instruction Cycle: fetch, decode, execute (R80). A fetch out of range and an unrecognised word are fatal (R81, R92). -/
def instructionStep (s : State) : Outcome :=
  match s.fetchWord with
  | none => s.raise .memoryOutOfRange (max s.pc.toNat 4096)
  | some w =>
    match decodeWord w with
    | none => s.raise .unrecognizedOpcode w.toNat
    | some i => exec i s

/-- What CORE samples of the wall clock: the count itself, or its value modulo `CLK_MOD` where the clock rolls over (R235). -/
def clockRead (p : Params) (wall : Int) : Int :=
  match p.clkMod with
  | none => wall
  | some m => wall % (m : Int)

/-- The trigger comparison, with the difference taken in the signed integers (R213). -/
def fires (now last : Int) (period : Nat) : Bool := decide (now - last < 0) || decide ((period : Int) < now - last)

/-- `x - 1` where `x` is not 0, else 0 (R214). -/
def countDown (x : Byte) : Byte := if x = 0 then 0 else x - 1

/-- The timer tick (R214): the tone is sampled before the decrement. The framebuffer is presented, then the tone. -/
def State.timerTick (s : State) : State :=
  { s with st := countDown s.st, dt := countDown s.dt, shown := some s.fb, tone := decide (s.st ≠ 0) }

/-- `last_instr <- now` (R211). -/
def State.markInstr (s : State) (now : Int) : State := { s with lastInstr := now }

/-- `last_timer <- now` (R212). -/
def State.markTimer (s : State) (now : Int) : State := { s with lastTimer := now }

/-- The timer trigger (R212). -/
def State.timerStage (now : Int) (s : State) : State :=
  if fires now s.lastTimer s.params.timerPeriod then (s.markTimer now).timerTick else s

/-- Host termination (R237): `halted <- 1; exit_code <- 0`. -/
def State.hostTerminate (s : State) : State := { s with halted := true, exitCode := some 0 }

/-- The timer trigger after an instruction step, which a fatal stop leaves out (R203, R240). -/
def afterInstruction (now : Int) : Outcome → Outcome
  | .next t => .next (if t.halted then t else t.timerStage now)
  | .fault f => .fault f
  | .refused r => .refused r

/-- One poll iteration of a running or halted CORE (R240). -/
def pollIteration (terminate : Bool) (now : Int) (s : State) : Outcome :=
  if s.halted then .next s
  else if terminate then .next s.hostTerminate
  else if fires now s.lastInstr s.params.instrPeriod then
    afterInstruction now (instructionStep (s.markInstr now))
  else .next (s.timerStage now)

/-- One poll iteration on what the `terminate` and `clock` ports carry. A halted CORE looks at no port (R206, R240). -/
def pollPorts (s : State) : Outcome :=
  if s.halted then .next s
  else pollIteration s.nextSample.terminate (clockRead s.params s.nextSample.wall) s.dropSample

/-- The wall clock's count at which the instruction trigger is due: one unit past its period (R211, R213). -/
def State.dueWall (s : State) : Int := s.lastInstr + (s.params.instrPeriod : Int) + 1

/-- The instruction whose table bits are `w`, placed where the next step fetches: its two bytes at `pc` (where both exist),
CORE not halted, and a sample next at which the instruction trigger fires and the timer trigger does not. Assumption 5. -/
def State.placeWord (s : State) (nbits w : Nat) : State :=
  let now := clockRead s.params s.dueWall
  { s with
    mem := if s.pc.toNat ≤ 4094 then s.mem.putList s.pc.toNat (layOut nbits w) else s.mem
    halted := false
    fatal := none
    exitCode := none
    lastInstr := now - ((s.params.instrPeriod : Int) + 1)
    lastTimer := now
    inputs := { s.inputs with samples := { terminate := false, wall := s.dueWall } :: s.inputs.samples } }

end Sys2Proof.Machine
end

