-- ==== Sys2Proof/Machine/Step.lean ====
section
/-! DEFINITION. The step of CORE is one poll iteration, the only thing that happens after reset (60_exceptions R240). -/

namespace Sys2Proof.Machine

/-- One poll iteration. -/
def step (s : State) : Host.Outcome State Fault Refusal := pollPorts s

/-- The state whose next step fetches and runs the instruction with the table bits `w`. -/
def State.withFetchWord (s : State) (nbits w : Nat) : State := s.placeWord nbits w

end Sys2Proof.Machine
end

