-- ==== Sys2Proof/Safety.lean ====
section
/-! DEFINITION. The terms in which claims are stated: frames (what an instruction leaves alone), the invariants of CORE, and
what counts as a safe run. -/

namespace Sys2Proof.Machine

/-! ## Frames (00_scope R11: an instruction's rule lists only the state it writes) -/

/-- `t` differs from `s` at most in `pc` and in the general registers listed in `d`. -/
structure OnlyRegs (s t : State) (d : List RegId) : Prop where
  regs  : ∀ r, r ∉ d → t.reg r = s.reg r
  bytes : ∀ a, t.mem.byte a = s.mem.byte a
  rest  : t = { s with v := t.v, pc := t.pc }

/-- `t` differs from `s` at most in `pc`. -/
structure OnlyPc (s t : State) : Prop where
  regs  : ∀ r, t.reg r = s.reg r
  bytes : ∀ a, t.mem.byte a = s.mem.byte a
  rest  : t = { s with pc := t.pc }

/-- `t` differs from `s` at most in `pc` and in the bytes at `base`, ..., `base + n - 1`. -/
structure OnlyBytes (s t : State) (base n : Nat) : Prop where
  regs  : ∀ r, t.reg r = s.reg r
  bytes : ∀ a, a < base ∨ base + n ≤ a → t.mem.byte a = s.mem.byte a
  rest  : t = { s with mem := t.mem, pc := t.pc }

/-- `t` is `s` with nothing but the status record written, by the fatal stop of this kind and `info` raised by the instruction
at `s.pc` (R205, R206). -/
def StoppedBy (s t : State) (kind : FatalKind) (info : Nat) : Prop :=
  t = { s with halted := true
               fatal := some { kind := kind, pc0 := some s.pc, w := s.fetchWord, info := info }
               exitCode := some kind.code }

/-- Pixel `(x, y)` lies under a set bit of one of the `rows` sprite rows read from `base` upward, drawn with its origin at
`(ox, oy)` (R171, R172). -/
def SpriteCovers (m : Memory) (base ox oy rows x y : Nat) : Prop :=
  ∃ i j, i < rows ∧ j < 8 ∧ x = ox + j ∧ y = oy + i ∧ (m.byte (base + i)).getLsbD (7 - j) = true

/-! ## What each instruction may write or raise -/

/-- Register `r` is a destination that the instruction names (R22, R155), `VF` as a flag not counted. -/
def namesRegister (i : Instr) (r : RegId) : Prop :=
  match i with
  | .loadImm x _ | .addImm x _ | .random x _ => r = x
  | .move x _ | .bitOr x _ | .bitAnd x _ | .bitXor x _ | .add x _ | .sub x _ | .subn x _ => r = x
  | .shr x | .shl x | .getDelay x | .waitKey x => r = x
  | .loadRegs x => r.toNat ≤ x.toNat
  | .clearScreen | .ret | .jump _ | .call _ | .setIndex _ | .jumpOffset _ => False
  | .skipEqImm _ _ | .skipNeqImm _ _ | .skipEqReg _ _ | .skipNeqReg _ _ => False
  | .draw _ _ _ | .skipIfKey _ | .skipIfNotKey _ | .setDelay _ | .setSound _ => False
  | .addIndex _ | .fontAddress _ | .storeBcd _ | .storeRegs _ => False

/-- The rows that write `VF` as a side effect, complete (R22). -/
def flagWriters : List Op := [.bitOr, .bitAnd, .bitXor, .add, .sub, .shr, .subn, .shl, .draw]

/-- The kinds a row's execute phase can raise, complete (R201). -/
def mayRaise (o : Op) (k : FatalKind) : Prop :=
  (o = .call ∧ k = .stackOverflow) ∨ (o = .ret ∧ k = .stackUnderflow) ∨
  (o ∈ [Op.draw, Op.storeBcd, Op.storeRegs, Op.loadRegs] ∧ k = .memoryOutOfRange)

/-! ## Invariants -/

/-- `pc` and the return addresses stay within what the rules can produce (R23, R112). -/
def State.AddressesBounded (s : State) : Prop :=
  s.pc.toNat ≤ 0x10FE ∧ ∀ k : BitVec 4, (s.slot k).toNat ≤ 4096

/-- The status record tells a running CORE, a terminated one and a fatal stop apart (R29, R206, R237). -/
def State.StatusCoherent (s : State) : Prop :=
  (s.halted = false ∧ s.fatal = none ∧ s.exitCode = none) ∨
  (s.halted = true ∧ s.fatal = none ∧ s.exitCode = some 0) ∨
  (s.halted = true ∧ ∃ r, s.fatal = some r ∧ s.exitCode = some r.kind.code)

/-- The counter of empty polls stays below `KEY_DECAY_POLLS` (R35). -/
def State.PollsBounded (s : State) : Prop :=
  s.params.valid = true → s.pollsSinceSeen < s.params.keyDecayPolls

/-! ## Safe runs -/

/-- CORE has not stopped on a fatal error. A run is safe when every state of it is (R277). -/
def State.safe (s : State) : Bool := s.fatal.isNone

/-- One step leads from `s` to `t`. -/
def StepsTo (s t : State) : Prop := step s = .next t

end Sys2Proof.Machine
end

