-- ==== Sys2Proof/Certificates/Slice0/Obligations.lean ====
section
/-! DEFINITION. The statements for the provers, each from the numbered rules of spec/. -/

namespace Sys2Proof.Machine

/-! ## Helpers of the statements -/

/-- `t` has the registers and the memory bytes of `s`. -/
def SameRegsAndBytes (s t : State) : Prop := (∀ r, t.reg r = s.reg r) ∧ ∀ a, t.mem.byte a = s.mem.byte a

/-- The access of `count` bytes from `I` upward is in range (R54). -/
def InRange (s : State) (count : Nat) : Prop := count = 0 ∨ s.idx.toNat + (count - 1) ≤ 4095

/-- The smallest of the out-of-range addresses `I`, `I + 1`, ... (R57). -/
def firstBad (s : State) : Nat := max s.idx.toNat 4096

/-- The origin column of draw. -/
def originX (s : State) (x : RegId) : Nat := (s.reg x).toNat % 64

/-- The origin row of draw. -/
def originY (s : State) (y : RegId) : Nat := (s.reg y).toNat % 32

/-- The rows of draw that lie on the screen: `min(n, 32 - oy)` (R171). -/
def rowsOf (s : State) (y : RegId) (n : Nibble) : Nat := min n.toNat (32 - originY s y)

/-- `draw X,Y,N` in `s` covers pixel `(px, py)` with a set sprite bit. -/
def DrawCovers (s : State) (x y : RegId) (n : Nibble) (px py : Nat) : Prop :=
  SpriteCovers s.mem s.idx.toNat (originX s x) (originY s y) (rowsOf s y n) px py

/-- The read key is the value of `V[x]` (R186). -/
def KeyHits (s : State) (x : RegId) : Prop := ∃ k, s.keyDecayRead.lastKey = some k ∧ k.toNat = (s.reg x).toNat

/-- `fires(now, last, period)` of R213. -/
def Fires (now last : Int) (period : Nat) : Prop := now - last < 0 ∨ (period : Int) < now - last

/-- The part of a poll iteration after the instruction trigger (R212, R240). -/
def TimerPart (now : Int) (s t : State) : Prop :=
  (Fires now s.lastTimer s.params.timerPeriod →
    t = { s with lastTimer := now
                 st := s.st - (if s.st = 0 then 0 else 1)
                 dt := s.dt - (if s.dt = 0 then 0 else 1)
                 shown := some s.fb
                 tone := decide (s.st ≠ 0) }) ∧
  (¬ Fires now s.lastTimer s.params.timerPeriod → t = s)

end Sys2Proof.Machine

open Sys2Proof Sys2Proof.Machine

/-! ## Decoding and encoding (30_encoding) -/

/-- Words written out from the encodings of R90, at least one per family, decode to their instructions.
The numbers are general knowledge (entry G1, log entry 6). -/
def Obligations.CanonicalWordsDecode : Prop :=
  decodeWord 0b0000000011100000#16 = some .clearScreen ∧
  decodeWord 0b0000000011101110#16 = some .ret ∧
  decodeWord 0b0001001000000100#16 = some (.jump 0x204) ∧
  decodeWord 0b0011000101000000#16 = some (.skipEqImm 1 0x40) ∧
  decodeWord 0b1000000000010100#16 = some (.add 0 1) ∧
  decodeWord 0b1000001100000110#16 = some (.shr 3) ∧
  decodeWord 0b1011001100000000#16 = some (.jumpOffset 0x300) ∧
  decodeWord 0b1101000100100101#16 = some (.draw 1 2 5) ∧
  decodeWord 0b1110010010011110#16 = some (.skipIfKey 4) ∧
  decodeWord 0b1111000100001010#16 = some (.waitKey 1) ∧
  decodeWord 0b1111001001100101#16 = some (.loadRegs 2)

/-- Decoding the bytes of an encoded instruction gives it back, with the bytes after it left over. Every term of Instr is
well-formed by its types. The numbers are general knowledge (entry G1, log entry 6). -/
def Obligations.DecodeOfEncode : Prop :=
  ∀ (i : Instr) (rest : List Byte), i.wellFormed = true ∧ decode (encodeBytes i ++ rest) = .ok (i, rest)

/-- R90: a word is a row's instruction exactly when it matches the row's mask and pattern, and the rows are disjoint.
The numbers are general knowledge (entry G1, log entry 6). -/
def Obligations.DecodeSelectsTheMatchingRow : Prop :=
  (∀ (w : Word) (o : Op), (∃ i, decodeWord w = some i ∧ i.op = o) ↔ w &&& o.mask = o.pattern) ∧
  ∀ (w : Word) (o o' : Op), w &&& o.mask = o.pattern → w &&& o'.mask = o'.pattern → o = o'

/-- R95: a word is an instruction exactly when it equals the canonical word outside the bits decode does not examine.
The spec's own decisions D2, D3, D35. -/
def Obligations.UnexaminedBitsDoNotMatter : Prop :=
  ∀ (w : Word) (i : Instr), decodeWord w = some i ↔ w &&& ~~~i.op.ignored = encode i

/-- The unrecognised words, listed by group as in the table of R93.
R93 is marked as derived from R90, whose numbers are general knowledge (log entry 6). -/
def Obligations.UnrecognizedWordsAreTheListedOnes : Prop :=
  ∀ w : Word, decodeWord w = none ↔
    (w.toNat / 4096 = 0x0 ∧ w.toNat % 256 ∉ [0xE0, 0xEE]) ∨
    (w.toNat / 4096 = 0x8 ∧ w.toNat % 16 ∈ [8, 9, 0xA, 0xB, 0xC, 0xD, 0xF]) ∨
    (w.toNat / 4096 = 0xE ∧ w.toNat % 256 ∉ [0x9E, 0xA1]) ∨
    (w.toNat / 4096 = 0xF ∧ w.toNat % 256 ∉ [0x07, 0x0A, 0x15, 0x18, 0x1E, 0x29, 0x33, 0x55, 0x65])

/-- R96: an assembler refuses exactly the lines with a wrong operand or a value that does not fit, and the word it gives for
any other line decodes to the instruction written as that line. The spec's own decision D32. -/
def Obligations.AssemblerRefusesWhatDoesNotFit : Prop :=
  (∀ l : Line, assemble l = none ↔ l.wellFormed = false) ∧
  ∀ (l : Line) (w : Word), assemble l = some w → ∃ i, decodeWord w = some i ∧ i.line = l

/-! ## Control transfer (40_control_transfer) -/

/-- R110: return takes the pushed address and lowers `sp`. With an empty stack it is the fatal stop `StackUnderflow`.
The spec's own decisions D14 (empty stack) and D15 (what a fatal stop leaves). -/
def Obligations.ReturnPopsTheStack : Prop :=
  ∀ s : State,
    (s.sp.toNat ≠ 0 → ∃ t, exec .ret s = .next t ∧ t.pc = s.slot s.sp ∧ t.sp.toNat = s.sp.toNat - 1 ∧
      SameRegsAndBytes s t ∧ t = { s with pc := t.pc, sp := t.sp }) ∧
    (s.sp.toNat = 0 → ∃ t, exec .ret s = .next t ∧ StoppedBy s t .stackUnderflow 0)

/-- R111: jump assigns `pc`, and nothing else changes. -/
def Obligations.JumpAssignsPc : Prop :=
  ∀ (s : State) (nnn : Addr), ∃ t, exec (.jump nnn) s = .next t ∧ t.pc.toNat = nnn.toNat ∧ OnlyPc s t

/-- R111, R274: a jump to its own address leaves every piece of state unchanged. A consequence of R111. -/
def Obligations.SelfJumpChangesNothing : Prop :=
  ∀ (s : State) (nnn : Addr), nnn.toNat = s.pc.toNat → exec (.jump nnn) s = .next s

/-- R112: call raises `sp`, stores the address of the next instruction in the new slot and jumps. The sixteenth nested call
is the fatal stop `StackOverflow`. The spec's own decisions D13 (the limit) and D15 (what a fatal stop leaves). -/
def Obligations.CallPushesTheReturnAddress : Prop :=
  ∀ (s : State) (nnn : Addr),
    (s.sp.toNat ≠ 15 → ∃ t, exec (.call nnn) s = .next t ∧ t.pc.toNat = nnn.toNat ∧ t.sp.toNat = s.sp.toNat + 1 ∧
      t.slot t.sp = s.pc + 2 ∧ (∀ k, k ≠ t.sp → t.slot k = s.slot k) ∧
      SameRegsAndBytes s t ∧ t = { s with pc := t.pc, sp := t.sp, stack := t.stack }) ∧
    (s.sp.toNat = 15 → ∃ t, exec (.call nnn) s = .next t ∧ StoppedBy s t .stackOverflow 16)

/-- Call and then return restores `pc` to the instruction immediately after the call and the stack to its depth.
The source's property S5 of 95_test_vectors. -/
def Obligations.CallThenReturnComesBack : Prop :=
  ∀ (s : State) (nnn : Addr), s.sp.toNat ≠ 15 →
    ∃ t u, exec (.call nnn) s = .next t ∧ exec .ret t = .next u ∧ u.pc = s.pc + 2 ∧
      (∀ k, k ≠ s.sp + 1 → u.slot k = s.slot k) ∧ u = { s with pc := u.pc, stack := u.stack }

/-- R114 to R117: the four skips go one instruction further exactly when their condition holds, and change only `pc`. -/
def Obligations.SkipsMoveOnlyPc : Prop :=
  ∀ (s : State) (x y : RegId) (kk : Byte),
    (∃ t, exec (.skipEqImm x kk) s = .next t ∧ OnlyPc s t ∧
      t.pc = if (s.reg x).toNat = kk.toNat then s.pc + 4 else s.pc + 2) ∧
    (∃ t, exec (.skipNeqImm x kk) s = .next t ∧ OnlyPc s t ∧
      t.pc = if (s.reg x).toNat = kk.toNat then s.pc + 2 else s.pc + 4) ∧
    (∃ t, exec (.skipEqReg x y) s = .next t ∧ OnlyPc s t ∧
      t.pc = if (s.reg x).toNat = (s.reg y).toNat then s.pc + 4 else s.pc + 2) ∧
    (∃ t, exec (.skipNeqReg x y) s = .next t ∧ OnlyPc s t ∧
      t.pc = if (s.reg x).toNat = (s.reg y).toNat then s.pc + 2 else s.pc + 4)

/-- R113: jump-offset assigns `nnn` plus `V[0]`, summed exactly, with no reduction modulo 4096. The spec's own decision D39. -/
def Obligations.JumpOffsetAddsV0 : Prop :=
  ∀ (s : State) (nnn : Addr),
    ∃ t, exec (.jumpOffset nnn) s = .next t ∧ t.pc.toNat = nnn.toNat + (s.reg 0).toNat ∧ OnlyPc s t

/-! ## Registers and ALU (41_register_alu) -/

/-- R130 to R132: load-imm, add-imm and move write one register and no flag. -/
def Obligations.LoadAddMoveWriteOneRegister : Prop :=
  ∀ (s : State) (x y : RegId) (kk : Byte),
    (∃ t, exec (.loadImm x kk) s = .next t ∧ t.reg x = kk ∧ t.pc = s.pc + 2 ∧ OnlyRegs s t [x]) ∧
    (∃ t, exec (.addImm x kk) s = .next t ∧ (t.reg x).toNat = ((s.reg x).toNat + kk.toNat) % 256 ∧
      t.pc = s.pc + 2 ∧ OnlyRegs s t [x]) ∧
    (∃ t, exec (.move x y) s = .next t ∧ t.reg x = s.reg y ∧ t.pc = s.pc + 2 ∧ OnlyRegs s t [x])

/-- R133 to R135: or, and, xor combine all 8 bits and leave `VF` 0, also where `x` is 15. -/
def Obligations.BitwiseClearsTheFlag : Prop :=
  ∀ (s : State) (x y : RegId),
    (∃ t, exec (.bitOr x y) s = .next t ∧
      (x ≠ 15 → ∀ k, (t.reg x).getLsbD k = ((s.reg x).getLsbD k || (s.reg y).getLsbD k)) ∧
      t.reg 15 = 0 ∧ t.pc = s.pc + 2 ∧ OnlyRegs s t [x, 15]) ∧
    (∃ t, exec (.bitAnd x y) s = .next t ∧
      (x ≠ 15 → ∀ k, (t.reg x).getLsbD k = ((s.reg x).getLsbD k && (s.reg y).getLsbD k)) ∧
      t.reg 15 = 0 ∧ t.pc = s.pc + 2 ∧ OnlyRegs s t [x, 15]) ∧
    (∃ t, exec (.bitXor x y) s = .next t ∧
      (x ≠ 15 → ∀ k, (t.reg x).getLsbD k = ((s.reg x).getLsbD k ^^ (s.reg y).getLsbD k)) ∧
      t.reg 15 = 0 ∧ t.pc = s.pc + 2 ∧ OnlyRegs s t [x, 15])

/-- R136: add writes the low 8 bits of the exact sum, then the carry to `VF`, which is what stays where `x` is 15. -/
def Obligations.AddReportsCarry : Prop :=
  ∀ (s : State) (x y : RegId), ∃ t, exec (.add x y) s = .next t ∧
    (x ≠ 15 → (t.reg x).toNat = ((s.reg x).toNat + (s.reg y).toNat) % 256) ∧
    (t.reg 15).toNat = (if 255 < (s.reg x).toNat + (s.reg y).toNat then 1 else 0) ∧
    t.pc = s.pc + 2 ∧ OnlyRegs s t [x, 15]

/-- R137, R139: sub and subn write the not-borrow flag first. The difference is of the registers as the flag left them:
`after r` is the flag for register 15 and the old value for every other.
Register 15 as an operand is the spec's own decision D4 (log entry 11). -/
def Obligations.SubtractionsReportNoBorrow : Prop :=
  ∀ (s : State) (x y : RegId),
    (∃ t, exec (.sub x y) s = .next t ∧
      (let f := if (s.reg y).toNat ≤ (s.reg x).toNat then 1 else 0
       let after := fun r : RegId => if r = 15 then f else (s.reg r).toNat
       (t.reg x).toNat = (after x + 256 - after y) % 256 ∧ (x ≠ 15 → (t.reg 15).toNat = f)) ∧
      t.pc = s.pc + 2 ∧ OnlyRegs s t [x, 15]) ∧
    (∃ t, exec (.subn x y) s = .next t ∧
      (let f := if (s.reg x).toNat ≤ (s.reg y).toNat then 1 else 0
       let after := fun r : RegId => if r = 15 then f else (s.reg r).toNat
       (t.reg x).toNat = (after y + 256 - after x) % 256 ∧ (x ≠ 15 → (t.reg 15).toNat = f)) ∧
      t.pc = s.pc + 2 ∧ OnlyRegs s t [x, 15])

/-- R138, R140: shr and shl write the bit to be shifted out first, then shift the register as the flag left it by one.
The spec's own decisions D4 (register 15, log entry 11) and D35. -/
def Obligations.ShiftsReportTheLostBit : Prop :=
  ∀ (s : State) (x : RegId),
    (∃ t, exec (.shr x) s = .next t ∧
      (x ≠ 15 → (t.reg x).toNat = (s.reg x).toNat / 2 ∧ (t.reg 15).toNat = (s.reg x).toNat % 2) ∧
      (x = 15 → t.reg 15 = 0) ∧ t.pc = s.pc + 2 ∧ OnlyRegs s t [x, 15]) ∧
    (∃ t, exec (.shl x) s = .next t ∧
      (x ≠ 15 → (t.reg x).toNat = (s.reg x).toNat * 2 % 256 ∧ (t.reg 15).toNat = (s.reg x).toNat / 128) ∧
      (x = 15 → (t.reg 15).toNat = 2 * ((s.reg 15).toNat / 128)) ∧ t.pc = s.pc + 2 ∧ OnlyRegs s t [x, 15])

/-- R143: the table of register 15 as an operand, `x = 15` and `x = y = 15` for or, and, xor, add, sub, subn, shr and shl.
With `F` the old `VF` and `b` the old `V[y]`. The spec's own decision D4 (log entry 11). -/
def Obligations.FlagAsDestinationTable : Prop :=
  ∀ (s : State) (y : RegId),
    let F := (s.reg 15).toNat
    let b := (s.reg y).toNat
    let le : Nat → Nat → Nat := fun p q => if p ≤ q then 1 else 0
    (∃ t, exec (.bitOr 15 y) s = .next t ∧ (t.reg 15).toNat = 0) ∧
    (∃ t, exec (.bitAnd 15 y) s = .next t ∧ (t.reg 15).toNat = 0) ∧
    (∃ t, exec (.bitXor 15 y) s = .next t ∧ (t.reg 15).toNat = 0) ∧
    (∃ t, exec (.add 15 y) s = .next t ∧ (t.reg 15).toNat = (F + b) / 256) ∧
    (∃ t, exec (.sub 15 y) s = .next t ∧
      (t.reg 15).toNat = if y = 15 then 0 else (le b F + 256 - b) % 256) ∧
    (∃ t, exec (.subn 15 y) s = .next t ∧
      (t.reg 15).toNat = if y = 15 then 0 else (b + 256 - le F b) % 256) ∧
    (∃ t, exec (.shr 15) s = .next t ∧ (t.reg 15).toNat = 0) ∧
    (∃ t, exec (.shl 15) s = .next t ∧ (t.reg 15).toNat = 2 * (F / 128))

/-- R143: the table of register 15 as the second operand, `x ≠ 15` and `y = 15`. With `F` the old `VF`, `a` the old `V[x]`.
The spec's own decision D4 (log entry 11). -/
def Obligations.FlagAsSecondOperandTable : Prop :=
  ∀ (s : State) (x : RegId), x ≠ 15 →
    let F := (s.reg 15).toNat
    let a := (s.reg x).toNat
    let le : Nat → Nat → Nat := fun p q => if p ≤ q then 1 else 0
    (∃ t, exec (.bitOr x 15) s = .next t ∧ (t.reg x).toNat = a ||| F ∧ (t.reg 15).toNat = 0) ∧
    (∃ t, exec (.bitAnd x 15) s = .next t ∧ (t.reg x).toNat = a &&& F ∧ (t.reg 15).toNat = 0) ∧
    (∃ t, exec (.bitXor x 15) s = .next t ∧ (t.reg x).toNat = a ^^^ F ∧ (t.reg 15).toNat = 0) ∧
    (∃ t, exec (.add x 15) s = .next t ∧ (t.reg x).toNat = (a + F) % 256 ∧ (t.reg 15).toNat = (a + F) / 256) ∧
    (∃ t, exec (.sub x 15) s = .next t ∧ (t.reg 15).toNat = le F a ∧ (t.reg x).toNat = (a + 256 - le F a) % 256) ∧
    (∃ t, exec (.subn x 15) s = .next t ∧ (t.reg 15).toNat = le a F ∧ (t.reg x).toNat = (le a F + 256 - a) % 256)

/-- R141: random takes exactly one byte of the random port, whatever it is, and writes it masked. No flag.
The spec's own decision D19. The byte is the model's free value (log entry 3), and the statement holds for each. -/
def Obligations.RandomMasksOneDraw : Prop :=
  ∀ (s : State) (x : RegId) (kk : Byte), ∃ t, exec (.random x kk) s = .next t ∧
    t.reg x = s.nextRandom &&& kk ∧ t.reg x &&& ~~~kk = 0 ∧ t.inputs = s.inputs.dropRandom ∧
    (∀ r, r ≠ x → t.reg r = s.reg r) ∧ (∀ a, t.mem.byte a = s.mem.byte a) ∧ t.pc = s.pc + 2 ∧
    t = { s with v := t.v, pc := t.pc, inputs := t.inputs }

/-- R22: an instruction changes only the registers it names as destinations, and `VF` where the table of R22 lists it. -/
def Obligations.OnlyNamedRegistersChange : Prop :=
  ∀ (i : Instr) (s t : State), exec i s = .next t →
    ∀ r, t.reg r ≠ s.reg r → namesRegister i r ∨ (r = 15 ∧ i.op ∈ flagWriters)

/-! ## Index register and memory (42_index_memory, 20_memory) -/

/-- R150, R152: set-index and font-address write `I` and nothing else but `pc`. -/
def Obligations.IndexIsSet : Prop :=
  ∀ (s : State) (x : RegId) (nnn : Addr),
    (∃ t, exec (.setIndex nnn) s = .next t ∧ t.idx.toNat = nnn.toNat ∧
      t.pc = s.pc + 2 ∧ SameRegsAndBytes s t ∧ t = { s with idx := t.idx, pc := t.pc }) ∧
    (∃ t, exec (.fontAddress x) s = .next t ∧ t.idx.toNat = 5 * ((s.reg x).toNat % 16) ∧
      t.pc = s.pc + 2 ∧ SameRegsAndBytes s t ∧ t = { s with idx := t.idx, pc := t.pc })

/-- R151: add-index adds `V[x]` to `I` modulo 65536, with no flag and no reduction modulo 4096. The spec's own decision D12. -/
def Obligations.AddIndexWraps : Prop :=
  ∀ (s : State) (x : RegId),
    ∃ t, exec (.addIndex x) s = .next t ∧ t.idx.toNat = (s.idx.toNat + (s.reg x).toNat) % 65536 ∧
      t.pc = s.pc + 2 ∧ SameRegsAndBytes s t ∧ t = { s with idx := t.idx, pc := t.pc }

/-- R153: store-bcd writes hundreds, tens and ones at `I`, `I + 1`, `I + 2` and nothing else. Out of range it is the fatal stop
with nothing written. Memory is in its canonical form, which every step keeps. The fatal case is the spec's own decision D15. -/
def Obligations.StoreBcdWritesThreeDigits : Prop :=
  ∀ (s : State) (x : RegId),
    (s.mem.wf = true → InRange s 3 → ∃ t, exec (.storeBcd x) s = .next t ∧
      (t.mem.byte s.idx.toNat).toNat = (s.reg x).toNat / 100 ∧
      (t.mem.byte (s.idx.toNat + 1)).toNat = (s.reg x).toNat / 10 % 10 ∧
      (t.mem.byte (s.idx.toNat + 2)).toNat = (s.reg x).toNat % 10 ∧
      t.pc = s.pc + 2 ∧ OnlyBytes s t s.idx.toNat 3) ∧
    (¬ InRange s 3 → ∃ t, exec (.storeBcd x) s = .next t ∧ StoppedBy s t .memoryOutOfRange (firstBad s))

/-- R154: store-regs writes `V[0]` to `V[x]` at ascending addresses from `I` and nothing else. Out of range it is the fatal
stop with nothing written. The fatal case is the spec's own decision D15. -/
def Obligations.StoreRegsCopiesOut : Prop :=
  ∀ (s : State) (x : RegId),
    (s.mem.wf = true → InRange s (x.toNat + 1) → ∃ t, exec (.storeRegs x) s = .next t ∧
      (∀ r : RegId, r.toNat ≤ x.toNat → t.mem.byte (s.idx.toNat + r.toNat) = s.reg r) ∧
      t.pc = s.pc + 2 ∧ OnlyBytes s t s.idx.toNat (x.toNat + 1)) ∧
    (¬ InRange s (x.toNat + 1) →
      ∃ t, exec (.storeRegs x) s = .next t ∧ StoppedBy s t .memoryOutOfRange (firstBad s))

/-- R155: load-regs reads `V[0]` to `V[x]` from ascending addresses from `I`. The registers above `x`, `I` and memory stay.
Out of range it is the fatal stop with no register changed. The fatal case is the spec's own decision D15. -/
def Obligations.LoadRegsCopiesIn : Prop :=
  ∀ (s : State) (x : RegId),
    (InRange s (x.toNat + 1) → ∃ t, exec (.loadRegs x) s = .next t ∧
      (∀ r : RegId, t.reg r = if r.toNat ≤ x.toNat then s.mem.byte (s.idx.toNat + r.toNat) else s.reg r) ∧
      (∀ a, t.mem.byte a = s.mem.byte a) ∧ t.pc = s.pc + 2 ∧ t = { s with v := t.v, pc := t.pc }) ∧
    (¬ InRange s (x.toNat + 1) →
      ∃ t, exec (.loadRegs x) s = .next t ∧ StoppedBy s t .memoryOutOfRange (firstBad s))

/-- load-regs after store-regs restores `V[0]` to `V[x]`, whatever the registers have become in between.
The source's scenario S10 of 95_test_vectors. -/
def Obligations.StoreThenLoadRestores : Prop :=
  ∀ (s : State) (x : RegId), s.mem.wf = true → InRange s (x.toNat + 1) →
    ∃ t, exec (.storeRegs x) s = .next t ∧
      ∀ u : State, u.mem = t.mem → u.idx = t.idx →
        ∃ w, exec (.loadRegs x) u = .next w ∧ ∀ r : RegId, r.toNat ≤ x.toNat → w.reg r = s.reg r

/-- R59, R64: a store-regs that writes the two bytes after itself is fetched next, the lower register as the high byte.
Both sentences are marked as derived in the spec. -/
def Obligations.StoredRegistersAreFetchedNext : Prop :=
  ∀ (s : State) (x : RegId), s.mem.wf = true → InRange s (x.toNat + 1) → 1 ≤ x.toNat → s.idx = s.pc + 2 →
    ∃ t, exec (.storeRegs x) s = .next t ∧ t.fetchWord = some (s.reg 0 ++ s.reg 1)

/-! ## Display (43_display) -/

/-- R170: clear-screen sets every pixel to 0. It touches no register and no memory. -/
def Obligations.ClearScreenClearsEveryPixel : Prop :=
  ∀ s : State, ∃ t, exec .clearScreen s = .next t ∧
    (∀ x y, x < 64 → y < 32 → Frame.pixel t.fb x y = false) ∧
    t.pc = s.pc + 2 ∧ SameRegsAndBytes s t ∧ t = { s with fb := t.fb, pc := t.pc }

/-- R171: draw inverts exactly the pixels under a set bit of a visible row, clipped at columns above 63 and rows above 31. `VF`
is 1 exactly when one of them was 1. Out of range it is the fatal stop with nothing changed.
The spec's own decisions D17 and D15 (log entry 12). -/
def Obligations.DrawXorsTheVisibleSprite : Prop :=
  ∀ (s : State) (x y : RegId) (n : Nibble),
    (InRange s (rowsOf s y n) → ∃ t, exec (.draw x y n) s = .next t ∧
      (∀ px py, px < 64 → py < 32 →
        (DrawCovers s x y n px py → Frame.pixel t.fb px py = !Frame.pixel s.fb px py) ∧
        (¬ DrawCovers s x y n px py → Frame.pixel t.fb px py = Frame.pixel s.fb px py)) ∧
      ((∃ px py, px < 64 ∧ DrawCovers s x y n px py ∧ Frame.pixel s.fb px py = true) → t.reg 15 = 1) ∧
      (¬ (∃ px py, px < 64 ∧ DrawCovers s x y n px py ∧ Frame.pixel s.fb px py = true) → t.reg 15 = 0) ∧
      (∀ r, r ≠ 15 → t.reg r = s.reg r) ∧ (∀ a, t.mem.byte a = s.mem.byte a) ∧
      t.pc = s.pc + 2 ∧ t = { s with v := t.v, fb := t.fb, pc := t.pc }) ∧
    (¬ InRange s (rowsOf s y n) →
      ∃ t, exec (.draw x y n) s = .next t ∧ StoppedBy s t .memoryOutOfRange (firstBad s))

/-- Drawing the same sprite again at the same origin restores the framebuffer. `VF` is then 1 exactly when the first draw turned
a pixel on, which the second one erases, and 0 otherwise. The source's property S7 of 95_test_vectors. -/
def Obligations.DrawTwiceRestoresTheFrame : Prop :=
  ∀ (s t : State) (x y : RegId) (n : Nibble), InRange s (rowsOf s y n) → exec (.draw x y n) s = .next t →
    originX t x = originX s x → originY t y = originY s y →
    ∃ u, exec (.draw x y n) t = .next u ∧ u.fb = s.fb ∧
      (u.reg 15 = 1 ↔ ∃ px py, px < 64 ∧ DrawCovers s x y n px py ∧ Frame.pixel s.fb px py = false) ∧
      (u.reg 15 = 1 ∨ u.reg 15 = 0)

/-- A draw on a screen just cleared reports no collision. The source's property in R170. -/
def Obligations.NoCollisionAfterClear : Prop :=
  ∀ (s : State) (x y : RegId) (n : Nibble), InRange s (rowsOf s y n) →
    ∃ t u, exec .clearScreen s = .next t ∧ exec (.draw x y n) t = .next u ∧ u.reg 15 = 0

/-! ## Keypad and timers (44_keypad_timers, 60_exceptions) -/

/-- R222: one answer of the host, and what it does to the stored key and the counter.
The spec's own decisions D22, D23. The answer is the model's input (log entry 3). -/
def Obligations.DecayingReadFollowsItsProcedure : Prop :=
  ∀ s : State,
    (∀ sym, s.nextKey = some sym →
      s.keyDecayRead.lastKey = s.params.keymap.lookup sym ∧ s.keyDecayRead.pollsSinceSeen = 0) ∧
    (s.nextKey = none → s.pollsSinceSeen + 1 < s.params.keyDecayPolls →
      s.keyDecayRead.lastKey = s.lastKey ∧ s.keyDecayRead.pollsSinceSeen = s.pollsSinceSeen + 1) ∧
    (s.nextKey = none → s.params.keyDecayPolls ≤ s.pollsSinceSeen + 1 →
      s.keyDecayRead.lastKey = none ∧ s.keyDecayRead.pollsSinceSeen = 0) ∧
    s.keyDecayRead.inputs = s.inputs.dropKey

/-- R222: after an event the key is reported by that read and by the next `KEY_DECAY_POLLS - 1` empty ones. The next clears it.
The spec's own decision D22. -/
def Obligations.KeyIsReportedUntilItDecays : Prop :=
  ∀ (s : State) (sym : HostSymbol) (m : Nat) (rest : List (Option HostSymbol)), 1 ≤ s.params.keyDecayPolls →
    s.inputs.keys = some sym :: (List.replicate m none ++ rest) →
    (m < s.params.keyDecayPolls →
      (State.keyDecayRead^[m + 1] s).lastKey = s.params.keymap.lookup sym) ∧
    (m = s.params.keyDecayPolls →
      (State.keyDecayRead^[m + 1] s).lastKey = none ∧ (State.keyDecayRead^[m + 1] s).pollsSinceSeen = 0)

/-- R180, R181: each key skip makes one decaying read. skip-if-key skips exactly when the read key equals the whole of
`V[x]`, skip-if-not-key exactly otherwise. The spec's own decisions D20, D22, D23. -/
def Obligations.KeySkipsAreComplements : Prop :=
  ∀ (s : State) (x : RegId),
    (∃ t, exec (.skipIfKey x) s = .next t ∧
      (KeyHits s x → t.pc = s.pc + 4) ∧ (¬ KeyHits s x → t.pc = s.pc + 2) ∧ SameRegsAndBytes s t ∧
      t = { s.keyDecayRead with pc := t.pc }) ∧
    (∃ t, exec (.skipIfNotKey x) s = .next t ∧
      (KeyHits s x → t.pc = s.pc + 2) ∧ (¬ KeyHits s x → t.pc = s.pc + 4) ∧ SameRegsAndBytes s t ∧
      t = { s.keyDecayRead with pc := t.pc }) ∧
    s.keyDecayRead = { s with lastKey := s.keyDecayRead.lastKey, pollsSinceSeen := s.keyDecayRead.pollsSinceSeen,
                              inputs := s.inputs.dropKey }

/-- R183, R223: wait-key takes one answer of the host. A mapped key goes to `V[x]`. With none, or an unmapped symbol, only that
answer is gone and `pc` is where it was. The adapter's stored key and counter are never touched.
The spec's own decisions D24, D37. -/
def Obligations.WaitKeyTakesAKeyOrStays : Prop :=
  ∀ (s : State) (x : RegId),
    (∀ sym k, s.nextKey = some sym → s.params.keymap.lookup sym = some k →
      ∃ t, exec (.waitKey x) s = .next t ∧ (t.reg x).toNat = k.toNat ∧ t.pc = s.pc + 2 ∧
        (∀ r, r ≠ x → t.reg r = s.reg r) ∧ (∀ a, t.mem.byte a = s.mem.byte a) ∧
        t = { s with v := t.v, pc := t.pc, inputs := s.inputs.dropKey }) ∧
    ((s.nextKey = none ∨ ∃ sym, s.nextKey = some sym ∧ s.params.keymap.lookup sym = none) →
      exec (.waitKey x) s = .next { s with inputs := s.inputs.dropKey })

/-- R182, R184, R185: get-delay reads `DT`, set-delay and set-sound write `DT` and `ST`. -/
def Obligations.TimerMoves : Prop :=
  ∀ (s : State) (x : RegId),
    (∃ t, exec (.getDelay x) s = .next t ∧ t.reg x = s.dt ∧ t.pc = s.pc + 2 ∧ OnlyRegs s t [x]) ∧
    (∃ t, exec (.setDelay x) s = .next t ∧ t.dt = s.reg x ∧ t.pc = s.pc + 2 ∧ SameRegsAndBytes s t ∧
      t = { s with dt := t.dt, pc := t.pc }) ∧
    (∃ t, exec (.setSound x) s = .next t ∧ t.st = s.reg x ∧ t.pc = s.pc + 2 ∧ SameRegsAndBytes s t ∧
      t = { s with st := t.st, pc := t.pc })

/-- R214: a timer tick counts both timers down to 0, presents the framebuffer, and the tone where the sound timer was not 0
at its start. The spec's own decision D31. What the ports last carried is the model's field (log entry 9). -/
def Obligations.TimerTickCountsDown : Prop :=
  ∀ s : State,
    s.timerTick.st.toNat = s.st.toNat - 1 ∧ s.timerTick.dt.toNat = s.dt.toNat - 1 ∧
    s.timerTick.shown = some s.fb ∧ (s.timerTick.tone = true ↔ s.st.toNat ≠ 0) ∧
    s.timerTick = { s with st := s.timerTick.st, dt := s.timerTick.dt, shown := s.timerTick.shown,
                           tone := s.timerTick.tone }

/-- R214, R185: `n` timer ticks leave the timers at their values less `n`, never below 0, and a sound timer of `v`
gives exactly `v` ticks with the tone. The source's property S12 of 95_test_vectors. -/
def Obligations.TicksNeverUnderflow : Prop :=
  ∀ (s : State) (n : Nat),
    (State.timerTick^[n] s).dt.toNat = s.dt.toNat - n ∧ (State.timerTick^[n] s).st.toNat = s.st.toNat - n ∧
    ((State.timerTick^[n + 1] s).tone = true ↔ n < s.st.toNat)

/-! ## The step and the main loop (30_encoding R80, 60_exceptions R240) -/

/-- R59, R81: fetch reads the two bytes at `pc` and `pc + 1`, big-endian, whatever the parity of `pc`. -/
def Obligations.FetchIsBigEndian : Prop :=
  ∀ s : State, s.pc.toNat ≤ 4094 → ∃ w, s.fetchWord = some w ∧
    w.toNat = (s.mem.byte s.pc.toNat).toNat * 256 + (s.mem.byte (s.pc.toNat + 1)).toNat

/-- R81: a fetch from above 4094 is the fatal stop with the first out-of-range address, no word recorded, `pc` unchanged.
The spec's own decisions D10, D15. -/
def Obligations.FetchOutOfRangeIsFatal : Prop :=
  ∀ s : State, 4094 < s.pc.toNat → ∃ t, instructionStep s = .next t ∧ s.fetchWord = none ∧
    StoppedBy s t .memoryOutOfRange (if s.pc.toNat = 4095 then 4096 else s.pc.toNat)

/-- R92: executing an unrecognised word is the fatal stop with the word as `info`.
What the stop leaves is the spec's own decision D15. -/
def Obligations.UnrecognizedWordIsFatal : Prop :=
  ∀ (s : State) (w : Word), s.fetchWord = some w → decodeWord w = none →
    ∃ t, instructionStep s = .next t ∧ StoppedBy s t .unrecognizedOpcode w.toNat

/-- Where the trigger fires and the bytes at `pc` decode to a well-formed instruction, the step is that instruction's exec on
the state with the sample taken and `last_instr` set, and after it the timer part unless CORE has stopped.
The order is the spec's own decision D27. -/
def Obligations.StepRunsTheDecodedInstruction : Prop :=
  ∀ (s t : State) (i : Instr) (rest : List Byte),
    let now := clockRead s.params s.nextSample.wall
    s.halted = false → s.nextSample.terminate = false → Fires now s.lastInstr s.params.instrPeriod →
    s.pc.toNat ≤ 4094 →
    decode [s.mem.byte s.pc.toNat, s.mem.byte (s.pc.toNat + 1)] = .ok (i, rest) → i.wellFormed = true →
    exec i { s with inputs := s.inputs.dropSample, lastInstr := now } = .next t →
    (t.halted = true → step s = .next t) ∧
    (t.halted = false → ∃ u, step s = .next u ∧ TimerPart now t u)

/-- R240: one poll iteration, case by case: halted, terminated, the instruction trigger, no instruction.
The spec's own decisions D26, D27, D29. -/
def Obligations.PollIterationCases : Prop :=
  ∀ (terminate : Bool) (now : Int) (s : State),
    (s.halted = true → pollIteration terminate now s = .next s) ∧
    (s.halted = false → terminate = true →
      pollIteration terminate now s = .next { s with halted := true, exitCode := some 0 }) ∧
    (s.halted = false → terminate = false → Fires now s.lastInstr s.params.instrPeriod →
      ∃ t u, instructionStep { s with lastInstr := now } = .next t ∧ pollIteration terminate now s = .next u ∧
        (t.halted = true → u = t) ∧ (t.halted = false → TimerPart now t u)) ∧
    (s.halted = false → terminate = false → ¬ Fires now s.lastInstr s.params.instrPeriod →
      ∃ u, pollIteration terminate now s = .next u ∧ TimerPart now s u)

/-- A halted CORE stays as it is, however many steps are taken (R206, R207, R240). That `halted` is sticky is the spec's own
decision D15. That a halted CORE answers a next state, with every field as it was, is the model's choice (log entry 10). -/
def Obligations.HaltIsForEver : Prop :=
  ∀ (s : State) (n : Nat), s.halted = true → core.run n s = .next s

/-- The step always answers a next state: CORE has no stop outside its own state.
The model's choice (log entry 10): a fatal stop is a state, not a stuck machine. -/
def Obligations.StepAlwaysAnswers : Prop :=
  ∀ s : State, ∃ t, step s = .next t

/-! ## Fatal stops (60_exceptions) -/

/-- R201, R205: an instruction either leaves the status record alone, or is a fatal stop of a kind its row can raise, with
nothing but the status record written. The spec's own decision D15, and R201 is marked as derived. -/
def Obligations.ExecStopsPreciselyOrRuns : Prop :=
  ∀ (i : Instr) (s : State), ∃ t, exec i s = .next t ∧
    ((t.halted = s.halted ∧ t.fatal = s.fatal ∧ t.exitCode = s.exitCode) ∨
     ∃ k info, mayRaise i.op k ∧ StoppedBy s t k info)

/-- R205, R206, R208: a step that ends in a fatal stop has changed nothing but the status record, the trigger's timestamp and
the sample taken. The exit code is not 0. The spec's own decision D15 (log entry 10). -/
def Obligations.FatalStepIsPrecise : Prop :=
  ∀ s t : State, StepsTo s t → s.halted = false → s.fatal = none → t.fatal ≠ none →
    (∃ c, t.exitCode = some c ∧ c ≠ 0) ∧
    t = { s with inputs := s.inputs.dropSample, lastInstr := clockRead s.params s.nextSample.wall,
                 halted := true, fatal := t.fatal, exitCode := t.exitCode }

/-! ## Whole-machine rules (10_state) -/

/-- The writers of each special register and space, as R24, R25, R27, R28, R30, R31 and R61 list them, and the instructions that
take something from an input port (R186, R236). -/
def Obligations.OnlyTheListedWriters : Prop :=
  ∀ (i : Instr) (s t : State), exec i s = .next t →
    (t.idx ≠ s.idx → i.op ∈ [Op.setIndex, .addIndex, .fontAddress]) ∧
    (t.sp ≠ s.sp → i.op ∈ [Op.call, .ret]) ∧
    (t.stack ≠ s.stack → i.op = Op.call) ∧
    (t.dt ≠ s.dt → i.op = Op.setDelay) ∧
    (t.st ≠ s.st → i.op = Op.setSound) ∧
    (t.fb ≠ s.fb → i.op ∈ [Op.clearScreen, .draw]) ∧
    ((∃ a, t.mem.byte a ≠ s.mem.byte a) → i.op ∈ [Op.storeBcd, .storeRegs]) ∧
    (t.lastKey ≠ s.lastKey ∨ t.pollsSinceSeen ≠ s.pollsSinceSeen → i.op ∈ [Op.skipIfKey, .skipIfNotKey]) ∧
    (t.inputs ≠ s.inputs → i.op ∈ [Op.random, .skipIfKey, .skipIfNotKey, .waitKey]) ∧
    t.lastInstr = s.lastInstr ∧ t.lastTimer = s.lastTimer ∧ t.shown = s.shown ∧ t.tone = s.tone

/-- R32: the parameters are fixed for a run. That they stand in State is the model's choice (log entry 1). -/
def Obligations.StepKeepsParameters : Prop :=
  ∀ s t : State, StepsTo s t → t.params = s.params

/-- R25: `stack[0]` is never written. -/
def Obligations.SlotZeroIsNeverWritten : Prop :=
  ∀ s t : State, StepsTo s t → t.slot 0 = s.slot 0

/-- The canonical form of memory is an invariant of every step. The form is the model's own. -/
def Obligations.StepKeepsMemoryCanonical : Prop :=
  ∀ s t : State, s.mem.wf = true → StepsTo s t → t.mem.wf = true

/-- R23: `pc` stays at most 0x10FE and every return address at most 4096, in every state with these bounds. -/
def Obligations.StepKeepsAddressesBounded : Prop :=
  ∀ s t : State, s.AddressesBounded → StepsTo s t → t.AddressesBounded

/-- R29, R208, R237: the status record tells running, terminated and fatally stopped apart, in every step. -/
def Obligations.StepKeepsStatusCoherent : Prop :=
  ∀ s t : State, s.StatusCoherent → StepsTo s t → t.StatusCoherent

/-- R35: the counter of empty polls stays below `KEY_DECAY_POLLS`. -/
def Obligations.StepKeepsPollsBounded : Prop :=
  ∀ s t : State, s.PollsBounded → StepsTo s t → t.PollsBounded

/-! ## Reset (10_state R34, 70_reset_and_hazards R260 to R263) -/

/-- R34: what reset leaves in every piece of state but memory, which `BootPlacesFontAndImage` gives.
The spec's own decisions D5, D6, D15, D22, D28 (log entry 7). -/
def Obligations.ResetValues : Prop :=
  (∀ r, State.reset.reg r = 0) ∧ State.reset.pc = 0x200 ∧ State.reset.idx = 0 ∧ State.reset.sp = 0 ∧
  (∀ k, State.reset.slot k = 0) ∧ State.reset.dt = 0 ∧ State.reset.st = 0 ∧
  (∀ x y, x < 64 → y < 32 → Frame.pixel State.reset.fb x y = false) ∧
  State.reset.lastKey = none ∧ State.reset.pollsSinceSeen = 0 ∧ State.reset.lastInstr = 0 ∧
  State.reset.lastTimer = 0 ∧ State.reset.halted = false ∧ State.reset.fatal = none ∧ State.reset.exitCode = none

/-- The invariants hold at reset. The invariants are the model's own. -/
def Obligations.ResetMeetsTheInvariants : Prop :=
  State.reset.mem.wf = true ∧ State.reset.AddressesBounded ∧ State.reset.StatusCoherent ∧ State.reset.PollsBounded

/-- R260, R262, R263: reset places the font at 0 to 79 and an image that fits at 0x200 upward, with 0 everywhere else. One
that does not fit halts CORE with `ImageTooLarge`, no byte of it written. Every other piece of state is as `State.reset` has it.
The spec's own decisions D5, D6, D7, D15, D30. The last clause is the model's default (log entries 2 and 4). -/
def Obligations.BootPlacesFontAndImage : Prop :=
  ∀ c : Config,
    (boot c).mem.wf = true ∧
    (∀ a (h : a < 80), (boot c).mem.byte a = c.font[a]) ∧
    (∀ a, 80 ≤ a → a < 0x200 → (boot c).mem.byte a = 0) ∧
    (0x200 + c.image.length ≤ 4096 →
      (∀ j (h : j < c.image.length), (boot c).mem.byte (0x200 + j) = c.image[j]) ∧
      (∀ a, 0x200 + c.image.length ≤ a → a < 4096 → (boot c).mem.byte a = 0) ∧
      boot c = { State.reset with params := c.params, mem := (boot c).mem }) ∧
    (4096 < 0x200 + c.image.length →
      (∀ a, 0x200 ≤ a → a < 4096 → (boot c).mem.byte a = 0) ∧
      (∃ e, (boot c).exitCode = some e ∧ e ≠ 0) ∧
      boot c = { State.reset with
        params := c.params
        mem := (boot c).mem
        halted := true
        fatal := some { kind := .imageTooLarge, pc0 := none, w := none, info := c.image.length }
        exitCode := (boot c).exitCode }) ∧
    (c.params = Params.default → c.font = fontTable → c.image = [] → boot c = State.reset)
end

