-- ==== Sys2Proof/Laws/Decode.lean ====
section
/-! SUPPORT. Packed words as numbers, and their fields (30_encoding R83, R84): each packed field reads back as it was given. -/

namespace Sys2Proof

/-- A packed pair of fields as a number. -/
theorem toNat_append {n m : Nat} (a : BitVec n) (b : BitVec m) : (a ++ b).toNat = a.toNat * 2 ^ m + b.toNat := by
  rw [BitVec.toNat_append, ← Nat.shiftLeft_add_eq_or_of_lt b.isLt, Nat.shiftLeft_eq]

theorem packA_toNat (g : Nibble) (a : Addr) : (packA g a).toNat = g.toNat * 4096 + a.toNat :=
  toNat_append g a

theorem packXK_toNat (g : Nibble) (x : RegId) (k : Byte) :
    (packXK g x k).toNat = g.toNat * 4096 + x.toNat * 256 + k.toNat := by
  have := toNat_append (g ++ x) k
  rw [toNat_append g x] at this
  rw [packXK, this]; omega

theorem packXYN_toNat (g : Nibble) (x y : RegId) (n : Nibble) :
    (packXYN g x y n).toNat = g.toNat * 4096 + x.toNat * 256 + y.toNat * 16 + n.toNat := by
  have := toNat_append (g ++ x ++ y) n
  rw [toNat_append (g ++ x) y, toNat_append g x] at this
  rw [packXYN, this]; omega

/-! ### Fields as numbers -/

theorem fieldGroup_toNat (w : Word) : (fieldGroup w).toNat = w.toNat / 4096 := by
  have := w.isLt
  simp only [fieldGroup, BitVec.extractLsb'_toNat, Nat.shiftRight_eq_div_pow]; omega

theorem fieldX_toNat (w : Word) : (fieldX w).toNat = w.toNat / 256 % 16 := by
  simp only [fieldX, BitVec.extractLsb'_toNat, Nat.shiftRight_eq_div_pow]

theorem fieldY_toNat (w : Word) : (fieldY w).toNat = w.toNat / 16 % 16 := by
  simp only [fieldY, BitVec.extractLsb'_toNat, Nat.shiftRight_eq_div_pow]

theorem fieldN_toNat (w : Word) : (fieldN w).toNat = w.toNat % 16 := by
  simp [fieldN, BitVec.extractLsb'_toNat]

theorem fieldKk_toNat (w : Word) : (fieldKk w).toNat = w.toNat % 256 := by
  simp [fieldKk, BitVec.extractLsb'_toNat]

theorem fieldNnn_toNat (w : Word) : (fieldNnn w).toNat = w.toNat % 4096 := by
  simp [fieldNnn, BitVec.extractLsb'_toNat]

/-! ### Fields of packed words -/

@[simp] theorem fieldGroup_packA (g : Nibble) (a : Addr) : fieldGroup (packA g a) = g := by
  apply BitVec.eq_of_toNat_eq; rw [fieldGroup_toNat, packA_toNat]; omega

@[simp] theorem fieldNnn_packA (g : Nibble) (a : Addr) : fieldNnn (packA g a) = a := by
  apply BitVec.eq_of_toNat_eq; rw [fieldNnn_toNat, packA_toNat]; omega

@[simp] theorem fieldGroup_packXK (g : Nibble) (x : RegId) (k : Byte) : fieldGroup (packXK g x k) = g := by
  apply BitVec.eq_of_toNat_eq; rw [fieldGroup_toNat, packXK_toNat]; omega

@[simp] theorem fieldX_packXK (g : Nibble) (x : RegId) (k : Byte) : fieldX (packXK g x k) = x := by
  apply BitVec.eq_of_toNat_eq; rw [fieldX_toNat, packXK_toNat]; omega

@[simp] theorem fieldKk_packXK (g : Nibble) (x : RegId) (k : Byte) : fieldKk (packXK g x k) = k := by
  apply BitVec.eq_of_toNat_eq; rw [fieldKk_toNat, packXK_toNat]; omega

@[simp] theorem fieldGroup_packXYN (g : Nibble) (x y : RegId) (n : Nibble) : fieldGroup (packXYN g x y n) = g := by
  apply BitVec.eq_of_toNat_eq; rw [fieldGroup_toNat, packXYN_toNat]; omega

@[simp] theorem fieldX_packXYN (g : Nibble) (x y : RegId) (n : Nibble) : fieldX (packXYN g x y n) = x := by
  apply BitVec.eq_of_toNat_eq; rw [fieldX_toNat, packXYN_toNat]; omega

@[simp] theorem fieldY_packXYN (g : Nibble) (x y : RegId) (n : Nibble) : fieldY (packXYN g x y n) = y := by
  apply BitVec.eq_of_toNat_eq; rw [fieldY_toNat, packXYN_toNat]; omega

@[simp] theorem fieldN_packXYN (g : Nibble) (x y : RegId) (n : Nibble) : fieldN (packXYN g x y n) = n := by
  apply BitVec.eq_of_toNat_eq; rw [fieldN_toNat, packXYN_toNat]; omega

/-- The two stored bytes of a word give the word back (R59). -/
theorem wordBytes_join (w : Word) : w.extractLsb' 8 8 ++ w.extractLsb' 0 8 = w := by
  apply BitVec.eq_of_toNat_eq
  have := w.isLt
  rw [toNat_append]
  simp only [BitVec.extractLsb'_toNat, Nat.shiftRight_eq_div_pow]
  omega

/-- Decoding the two bytes of a word and whatever follows them. -/
theorem decode_wordBytes (w : Word) (rest : List Byte) : decode (wordBytes w ++ rest) =
    match decodeWord w with
    | some i => .ok (i, rest)
    | none => .error (.unrecognized w) := by
  cases h : decodeWord w <;> simp [wordBytes, decode, wordBytes_join, h]

end Sys2Proof
end

