-- ==== Sys2Proof/Laws/State.lean ====
section
/-! SUPPORT. One lemma per field and per update of the state, so that no proof unfolds a record update. -/

namespace Sys2Proof.Machine

variable (s : State)

/-! ### `setReg` -/

@[simp] theorem State.setReg_v (r : RegId) (b : Byte) : (s.setReg r b).v = s.v.set r.toNat b r.isLt := rfl
@[simp] theorem State.setReg_pc (r : RegId) (b : Byte) : (s.setReg r b).pc = s.pc := rfl
@[simp] theorem State.setReg_idx (r : RegId) (b : Byte) : (s.setReg r b).idx = s.idx := rfl
@[simp] theorem State.setReg_sp (r : RegId) (b : Byte) : (s.setReg r b).sp = s.sp := rfl
@[simp] theorem State.setReg_stack (r : RegId) (b : Byte) : (s.setReg r b).stack = s.stack := rfl
@[simp] theorem State.setReg_dt (r : RegId) (b : Byte) : (s.setReg r b).dt = s.dt := rfl
@[simp] theorem State.setReg_st (r : RegId) (b : Byte) : (s.setReg r b).st = s.st := rfl
@[simp] theorem State.setReg_mem (r : RegId) (b : Byte) : (s.setReg r b).mem = s.mem := rfl
@[simp] theorem State.setReg_fb (r : RegId) (b : Byte) : (s.setReg r b).fb = s.fb := rfl
@[simp] theorem State.setReg_lastKey (r : RegId) (b : Byte) : (s.setReg r b).lastKey = s.lastKey := rfl
@[simp] theorem State.setReg_pollsSinceSeen (r : RegId) (b : Byte) : (s.setReg r b).pollsSinceSeen = s.pollsSinceSeen := rfl
@[simp] theorem State.setReg_lastInstr (r : RegId) (b : Byte) : (s.setReg r b).lastInstr = s.lastInstr := rfl
@[simp] theorem State.setReg_lastTimer (r : RegId) (b : Byte) : (s.setReg r b).lastTimer = s.lastTimer := rfl
@[simp] theorem State.setReg_halted (r : RegId) (b : Byte) : (s.setReg r b).halted = s.halted := rfl
@[simp] theorem State.setReg_fatal (r : RegId) (b : Byte) : (s.setReg r b).fatal = s.fatal := rfl
@[simp] theorem State.setReg_exitCode (r : RegId) (b : Byte) : (s.setReg r b).exitCode = s.exitCode := rfl
@[simp] theorem State.setReg_shown (r : RegId) (b : Byte) : (s.setReg r b).shown = s.shown := rfl
@[simp] theorem State.setReg_tone (r : RegId) (b : Byte) : (s.setReg r b).tone = s.tone := rfl
@[simp] theorem State.setReg_params (r : RegId) (b : Byte) : (s.setReg r b).params = s.params := rfl
@[simp] theorem State.setReg_inputs (r : RegId) (b : Byte) : (s.setReg r b).inputs = s.inputs := rfl
@[simp] theorem State.setReg_slot (r : RegId) (b : Byte) (k : BitVec 4) : (s.setReg r b).slot k = s.slot k := by simp [State.slot]

/-! ### `advance` -/

@[simp] theorem State.advance_v : s.advance.v = s.v := rfl
@[simp] theorem State.advance_pc : s.advance.pc = s.pc + 2 := rfl
@[simp] theorem State.advance_idx : s.advance.idx = s.idx := rfl
@[simp] theorem State.advance_sp : s.advance.sp = s.sp := rfl
@[simp] theorem State.advance_stack : s.advance.stack = s.stack := rfl
@[simp] theorem State.advance_dt : s.advance.dt = s.dt := rfl
@[simp] theorem State.advance_st : s.advance.st = s.st := rfl
@[simp] theorem State.advance_mem : s.advance.mem = s.mem := rfl
@[simp] theorem State.advance_fb : s.advance.fb = s.fb := rfl
@[simp] theorem State.advance_lastKey : s.advance.lastKey = s.lastKey := rfl
@[simp] theorem State.advance_pollsSinceSeen : s.advance.pollsSinceSeen = s.pollsSinceSeen := rfl
@[simp] theorem State.advance_lastInstr : s.advance.lastInstr = s.lastInstr := rfl
@[simp] theorem State.advance_lastTimer : s.advance.lastTimer = s.lastTimer := rfl
@[simp] theorem State.advance_halted : s.advance.halted = s.halted := rfl
@[simp] theorem State.advance_fatal : s.advance.fatal = s.fatal := rfl
@[simp] theorem State.advance_exitCode : s.advance.exitCode = s.exitCode := rfl
@[simp] theorem State.advance_shown : s.advance.shown = s.shown := rfl
@[simp] theorem State.advance_tone : s.advance.tone = s.tone := rfl
@[simp] theorem State.advance_params : s.advance.params = s.params := rfl
@[simp] theorem State.advance_inputs : s.advance.inputs = s.inputs := rfl
@[simp] theorem State.advance_reg (q : RegId) : s.advance.reg q = s.reg q := by simp [State.reg]
@[simp] theorem State.advance_slot (k : BitVec 4) : s.advance.slot k = s.slot k := by simp [State.slot]

/-! ### `skipIf` -/

@[simp] theorem State.skipIf_v (c : Bool) : (s.skipIf c).v = s.v := rfl
@[simp] theorem State.skipIf_pc (c : Bool) : (s.skipIf c).pc = if c then s.pc + 4 else s.pc + 2 := rfl
@[simp] theorem State.skipIf_idx (c : Bool) : (s.skipIf c).idx = s.idx := rfl
@[simp] theorem State.skipIf_sp (c : Bool) : (s.skipIf c).sp = s.sp := rfl
@[simp] theorem State.skipIf_stack (c : Bool) : (s.skipIf c).stack = s.stack := rfl
@[simp] theorem State.skipIf_dt (c : Bool) : (s.skipIf c).dt = s.dt := rfl
@[simp] theorem State.skipIf_st (c : Bool) : (s.skipIf c).st = s.st := rfl
@[simp] theorem State.skipIf_mem (c : Bool) : (s.skipIf c).mem = s.mem := rfl
@[simp] theorem State.skipIf_fb (c : Bool) : (s.skipIf c).fb = s.fb := rfl
@[simp] theorem State.skipIf_lastKey (c : Bool) : (s.skipIf c).lastKey = s.lastKey := rfl
@[simp] theorem State.skipIf_pollsSinceSeen (c : Bool) : (s.skipIf c).pollsSinceSeen = s.pollsSinceSeen := rfl
@[simp] theorem State.skipIf_lastInstr (c : Bool) : (s.skipIf c).lastInstr = s.lastInstr := rfl
@[simp] theorem State.skipIf_lastTimer (c : Bool) : (s.skipIf c).lastTimer = s.lastTimer := rfl
@[simp] theorem State.skipIf_halted (c : Bool) : (s.skipIf c).halted = s.halted := rfl
@[simp] theorem State.skipIf_fatal (c : Bool) : (s.skipIf c).fatal = s.fatal := rfl
@[simp] theorem State.skipIf_exitCode (c : Bool) : (s.skipIf c).exitCode = s.exitCode := rfl
@[simp] theorem State.skipIf_shown (c : Bool) : (s.skipIf c).shown = s.shown := rfl
@[simp] theorem State.skipIf_tone (c : Bool) : (s.skipIf c).tone = s.tone := rfl
@[simp] theorem State.skipIf_params (c : Bool) : (s.skipIf c).params = s.params := rfl
@[simp] theorem State.skipIf_inputs (c : Bool) : (s.skipIf c).inputs = s.inputs := rfl
@[simp] theorem State.skipIf_reg (c : Bool) (q : RegId) : (s.skipIf c).reg q = s.reg q := by simp [State.reg]
@[simp] theorem State.skipIf_slot (c : Bool) (k : BitVec 4) : (s.skipIf c).slot k = s.slot k := by simp [State.slot]

/-! ### `jumpTo` -/

@[simp] theorem State.jumpTo_v (a : Word) : (s.jumpTo a).v = s.v := rfl
@[simp] theorem State.jumpTo_pc (a : Word) : (s.jumpTo a).pc = a := rfl
@[simp] theorem State.jumpTo_idx (a : Word) : (s.jumpTo a).idx = s.idx := rfl
@[simp] theorem State.jumpTo_sp (a : Word) : (s.jumpTo a).sp = s.sp := rfl
@[simp] theorem State.jumpTo_stack (a : Word) : (s.jumpTo a).stack = s.stack := rfl
@[simp] theorem State.jumpTo_dt (a : Word) : (s.jumpTo a).dt = s.dt := rfl
@[simp] theorem State.jumpTo_st (a : Word) : (s.jumpTo a).st = s.st := rfl
@[simp] theorem State.jumpTo_mem (a : Word) : (s.jumpTo a).mem = s.mem := rfl
@[simp] theorem State.jumpTo_fb (a : Word) : (s.jumpTo a).fb = s.fb := rfl
@[simp] theorem State.jumpTo_lastKey (a : Word) : (s.jumpTo a).lastKey = s.lastKey := rfl
@[simp] theorem State.jumpTo_pollsSinceSeen (a : Word) : (s.jumpTo a).pollsSinceSeen = s.pollsSinceSeen := rfl
@[simp] theorem State.jumpTo_lastInstr (a : Word) : (s.jumpTo a).lastInstr = s.lastInstr := rfl
@[simp] theorem State.jumpTo_lastTimer (a : Word) : (s.jumpTo a).lastTimer = s.lastTimer := rfl
@[simp] theorem State.jumpTo_halted (a : Word) : (s.jumpTo a).halted = s.halted := rfl
@[simp] theorem State.jumpTo_fatal (a : Word) : (s.jumpTo a).fatal = s.fatal := rfl
@[simp] theorem State.jumpTo_exitCode (a : Word) : (s.jumpTo a).exitCode = s.exitCode := rfl
@[simp] theorem State.jumpTo_shown (a : Word) : (s.jumpTo a).shown = s.shown := rfl
@[simp] theorem State.jumpTo_tone (a : Word) : (s.jumpTo a).tone = s.tone := rfl
@[simp] theorem State.jumpTo_params (a : Word) : (s.jumpTo a).params = s.params := rfl
@[simp] theorem State.jumpTo_inputs (a : Word) : (s.jumpTo a).inputs = s.inputs := rfl
@[simp] theorem State.jumpTo_reg (a : Word) (q : RegId) : (s.jumpTo a).reg q = s.reg q := by simp [State.reg]
@[simp] theorem State.jumpTo_slot (a : Word) (k : BitVec 4) : (s.jumpTo a).slot k = s.slot k := by simp [State.slot]

/-! ### `push` -/

@[simp] theorem State.push_v (a : Word) : (s.push a).v = s.v := rfl
@[simp] theorem State.push_pc (a : Word) : (s.push a).pc = s.pc := rfl
@[simp] theorem State.push_idx (a : Word) : (s.push a).idx = s.idx := rfl
@[simp] theorem State.push_sp (a : Word) : (s.push a).sp = s.sp + 1 := rfl
@[simp] theorem State.push_stack (a : Word) : (s.push a).stack = s.stack.set (s.sp + 1).toNat a (s.sp + 1).isLt := rfl
@[simp] theorem State.push_dt (a : Word) : (s.push a).dt = s.dt := rfl
@[simp] theorem State.push_st (a : Word) : (s.push a).st = s.st := rfl
@[simp] theorem State.push_mem (a : Word) : (s.push a).mem = s.mem := rfl
@[simp] theorem State.push_fb (a : Word) : (s.push a).fb = s.fb := rfl
@[simp] theorem State.push_lastKey (a : Word) : (s.push a).lastKey = s.lastKey := rfl
@[simp] theorem State.push_pollsSinceSeen (a : Word) : (s.push a).pollsSinceSeen = s.pollsSinceSeen := rfl
@[simp] theorem State.push_lastInstr (a : Word) : (s.push a).lastInstr = s.lastInstr := rfl
@[simp] theorem State.push_lastTimer (a : Word) : (s.push a).lastTimer = s.lastTimer := rfl
@[simp] theorem State.push_halted (a : Word) : (s.push a).halted = s.halted := rfl
@[simp] theorem State.push_fatal (a : Word) : (s.push a).fatal = s.fatal := rfl
@[simp] theorem State.push_exitCode (a : Word) : (s.push a).exitCode = s.exitCode := rfl
@[simp] theorem State.push_shown (a : Word) : (s.push a).shown = s.shown := rfl
@[simp] theorem State.push_tone (a : Word) : (s.push a).tone = s.tone := rfl
@[simp] theorem State.push_params (a : Word) : (s.push a).params = s.params := rfl
@[simp] theorem State.push_inputs (a : Word) : (s.push a).inputs = s.inputs := rfl
@[simp] theorem State.push_reg (a : Word) (q : RegId) : (s.push a).reg q = s.reg q := by simp [State.reg]

/-! ### `fatalStop` -/

@[simp] theorem State.fatalStop_v (r : FatalRecord) : (s.fatalStop r).v = s.v := rfl
@[simp] theorem State.fatalStop_pc (r : FatalRecord) : (s.fatalStop r).pc = s.pc := rfl
@[simp] theorem State.fatalStop_idx (r : FatalRecord) : (s.fatalStop r).idx = s.idx := rfl
@[simp] theorem State.fatalStop_sp (r : FatalRecord) : (s.fatalStop r).sp = s.sp := rfl
@[simp] theorem State.fatalStop_stack (r : FatalRecord) : (s.fatalStop r).stack = s.stack := rfl
@[simp] theorem State.fatalStop_dt (r : FatalRecord) : (s.fatalStop r).dt = s.dt := rfl
@[simp] theorem State.fatalStop_st (r : FatalRecord) : (s.fatalStop r).st = s.st := rfl
@[simp] theorem State.fatalStop_mem (r : FatalRecord) : (s.fatalStop r).mem = s.mem := rfl
@[simp] theorem State.fatalStop_fb (r : FatalRecord) : (s.fatalStop r).fb = s.fb := rfl
@[simp] theorem State.fatalStop_lastKey (r : FatalRecord) : (s.fatalStop r).lastKey = s.lastKey := rfl
@[simp] theorem State.fatalStop_pollsSinceSeen (r : FatalRecord) : (s.fatalStop r).pollsSinceSeen = s.pollsSinceSeen := rfl
@[simp] theorem State.fatalStop_lastInstr (r : FatalRecord) : (s.fatalStop r).lastInstr = s.lastInstr := rfl
@[simp] theorem State.fatalStop_lastTimer (r : FatalRecord) : (s.fatalStop r).lastTimer = s.lastTimer := rfl
@[simp] theorem State.fatalStop_halted (r : FatalRecord) : (s.fatalStop r).halted = true := rfl
@[simp] theorem State.fatalStop_fatal (r : FatalRecord) : (s.fatalStop r).fatal = some r := rfl
@[simp] theorem State.fatalStop_exitCode (r : FatalRecord) : (s.fatalStop r).exitCode = some r.kind.code := rfl
@[simp] theorem State.fatalStop_shown (r : FatalRecord) : (s.fatalStop r).shown = s.shown := rfl
@[simp] theorem State.fatalStop_tone (r : FatalRecord) : (s.fatalStop r).tone = s.tone := rfl
@[simp] theorem State.fatalStop_params (r : FatalRecord) : (s.fatalStop r).params = s.params := rfl
@[simp] theorem State.fatalStop_inputs (r : FatalRecord) : (s.fatalStop r).inputs = s.inputs := rfl
@[simp] theorem State.fatalStop_reg (r : FatalRecord) (q : RegId) : (s.fatalStop r).reg q = s.reg q := by simp [State.reg]
@[simp] theorem State.fatalStop_slot (r : FatalRecord) (k : BitVec 4) : (s.fatalStop r).slot k = s.slot k := by simp [State.slot]

/-! ### `hostTerminate` -/

@[simp] theorem State.hostTerminate_v : s.hostTerminate.v = s.v := rfl
@[simp] theorem State.hostTerminate_pc : s.hostTerminate.pc = s.pc := rfl
@[simp] theorem State.hostTerminate_idx : s.hostTerminate.idx = s.idx := rfl
@[simp] theorem State.hostTerminate_sp : s.hostTerminate.sp = s.sp := rfl
@[simp] theorem State.hostTerminate_stack : s.hostTerminate.stack = s.stack := rfl
@[simp] theorem State.hostTerminate_dt : s.hostTerminate.dt = s.dt := rfl
@[simp] theorem State.hostTerminate_st : s.hostTerminate.st = s.st := rfl
@[simp] theorem State.hostTerminate_mem : s.hostTerminate.mem = s.mem := rfl
@[simp] theorem State.hostTerminate_fb : s.hostTerminate.fb = s.fb := rfl
@[simp] theorem State.hostTerminate_lastKey : s.hostTerminate.lastKey = s.lastKey := rfl
@[simp] theorem State.hostTerminate_pollsSinceSeen : s.hostTerminate.pollsSinceSeen = s.pollsSinceSeen := rfl
@[simp] theorem State.hostTerminate_lastInstr : s.hostTerminate.lastInstr = s.lastInstr := rfl
@[simp] theorem State.hostTerminate_lastTimer : s.hostTerminate.lastTimer = s.lastTimer := rfl
@[simp] theorem State.hostTerminate_halted : s.hostTerminate.halted = true := rfl
@[simp] theorem State.hostTerminate_fatal : s.hostTerminate.fatal = s.fatal := rfl
@[simp] theorem State.hostTerminate_exitCode : s.hostTerminate.exitCode = some 0 := rfl
@[simp] theorem State.hostTerminate_shown : s.hostTerminate.shown = s.shown := rfl
@[simp] theorem State.hostTerminate_tone : s.hostTerminate.tone = s.tone := rfl
@[simp] theorem State.hostTerminate_params : s.hostTerminate.params = s.params := rfl
@[simp] theorem State.hostTerminate_inputs : s.hostTerminate.inputs = s.inputs := rfl
@[simp] theorem State.hostTerminate_reg (q : RegId) : s.hostTerminate.reg q = s.reg q := by simp [State.reg]
@[simp] theorem State.hostTerminate_slot (k : BitVec 4) : s.hostTerminate.slot k = s.slot k := by simp [State.slot]

/-! ### `timerTick` -/

@[simp] theorem State.timerTick_v : s.timerTick.v = s.v := rfl
@[simp] theorem State.timerTick_pc : s.timerTick.pc = s.pc := rfl
@[simp] theorem State.timerTick_idx : s.timerTick.idx = s.idx := rfl
@[simp] theorem State.timerTick_sp : s.timerTick.sp = s.sp := rfl
@[simp] theorem State.timerTick_stack : s.timerTick.stack = s.stack := rfl
@[simp] theorem State.timerTick_dt : s.timerTick.dt = countDown s.dt := rfl
@[simp] theorem State.timerTick_st : s.timerTick.st = countDown s.st := rfl
@[simp] theorem State.timerTick_mem : s.timerTick.mem = s.mem := rfl
@[simp] theorem State.timerTick_fb : s.timerTick.fb = s.fb := rfl
@[simp] theorem State.timerTick_lastKey : s.timerTick.lastKey = s.lastKey := rfl
@[simp] theorem State.timerTick_pollsSinceSeen : s.timerTick.pollsSinceSeen = s.pollsSinceSeen := rfl
@[simp] theorem State.timerTick_lastInstr : s.timerTick.lastInstr = s.lastInstr := rfl
@[simp] theorem State.timerTick_lastTimer : s.timerTick.lastTimer = s.lastTimer := rfl
@[simp] theorem State.timerTick_halted : s.timerTick.halted = s.halted := rfl
@[simp] theorem State.timerTick_fatal : s.timerTick.fatal = s.fatal := rfl
@[simp] theorem State.timerTick_exitCode : s.timerTick.exitCode = s.exitCode := rfl
@[simp] theorem State.timerTick_shown : s.timerTick.shown = some s.fb := rfl
@[simp] theorem State.timerTick_tone : s.timerTick.tone = decide (s.st ≠ 0) := rfl
@[simp] theorem State.timerTick_params : s.timerTick.params = s.params := rfl
@[simp] theorem State.timerTick_inputs : s.timerTick.inputs = s.inputs := rfl
@[simp] theorem State.timerTick_reg (q : RegId) : s.timerTick.reg q = s.reg q := by simp [State.reg]
@[simp] theorem State.timerTick_slot (k : BitVec 4) : s.timerTick.slot k = s.slot k := by simp [State.slot]

/-! ### `dropSample` -/

@[simp] theorem State.dropSample_v : s.dropSample.v = s.v := rfl
@[simp] theorem State.dropSample_pc : s.dropSample.pc = s.pc := rfl
@[simp] theorem State.dropSample_idx : s.dropSample.idx = s.idx := rfl
@[simp] theorem State.dropSample_sp : s.dropSample.sp = s.sp := rfl
@[simp] theorem State.dropSample_stack : s.dropSample.stack = s.stack := rfl
@[simp] theorem State.dropSample_dt : s.dropSample.dt = s.dt := rfl
@[simp] theorem State.dropSample_st : s.dropSample.st = s.st := rfl
@[simp] theorem State.dropSample_mem : s.dropSample.mem = s.mem := rfl
@[simp] theorem State.dropSample_fb : s.dropSample.fb = s.fb := rfl
@[simp] theorem State.dropSample_lastKey : s.dropSample.lastKey = s.lastKey := rfl
@[simp] theorem State.dropSample_pollsSinceSeen : s.dropSample.pollsSinceSeen = s.pollsSinceSeen := rfl
@[simp] theorem State.dropSample_lastInstr : s.dropSample.lastInstr = s.lastInstr := rfl
@[simp] theorem State.dropSample_lastTimer : s.dropSample.lastTimer = s.lastTimer := rfl
@[simp] theorem State.dropSample_halted : s.dropSample.halted = s.halted := rfl
@[simp] theorem State.dropSample_fatal : s.dropSample.fatal = s.fatal := rfl
@[simp] theorem State.dropSample_exitCode : s.dropSample.exitCode = s.exitCode := rfl
@[simp] theorem State.dropSample_shown : s.dropSample.shown = s.shown := rfl
@[simp] theorem State.dropSample_tone : s.dropSample.tone = s.tone := rfl
@[simp] theorem State.dropSample_params : s.dropSample.params = s.params := rfl
@[simp] theorem State.dropSample_inputs : s.dropSample.inputs = s.inputs.dropSample := rfl
@[simp] theorem State.dropSample_reg (q : RegId) : s.dropSample.reg q = s.reg q := by simp [State.reg]
@[simp] theorem State.dropSample_slot (k : BitVec 4) : s.dropSample.slot k = s.slot k := by simp [State.slot]

/-! ### `dropKey` -/

@[simp] theorem State.dropKey_v : s.dropKey.v = s.v := rfl
@[simp] theorem State.dropKey_pc : s.dropKey.pc = s.pc := rfl
@[simp] theorem State.dropKey_idx : s.dropKey.idx = s.idx := rfl
@[simp] theorem State.dropKey_sp : s.dropKey.sp = s.sp := rfl
@[simp] theorem State.dropKey_stack : s.dropKey.stack = s.stack := rfl
@[simp] theorem State.dropKey_dt : s.dropKey.dt = s.dt := rfl
@[simp] theorem State.dropKey_st : s.dropKey.st = s.st := rfl
@[simp] theorem State.dropKey_mem : s.dropKey.mem = s.mem := rfl
@[simp] theorem State.dropKey_fb : s.dropKey.fb = s.fb := rfl
@[simp] theorem State.dropKey_lastKey : s.dropKey.lastKey = s.lastKey := rfl
@[simp] theorem State.dropKey_pollsSinceSeen : s.dropKey.pollsSinceSeen = s.pollsSinceSeen := rfl
@[simp] theorem State.dropKey_lastInstr : s.dropKey.lastInstr = s.lastInstr := rfl
@[simp] theorem State.dropKey_lastTimer : s.dropKey.lastTimer = s.lastTimer := rfl
@[simp] theorem State.dropKey_halted : s.dropKey.halted = s.halted := rfl
@[simp] theorem State.dropKey_fatal : s.dropKey.fatal = s.fatal := rfl
@[simp] theorem State.dropKey_exitCode : s.dropKey.exitCode = s.exitCode := rfl
@[simp] theorem State.dropKey_shown : s.dropKey.shown = s.shown := rfl
@[simp] theorem State.dropKey_tone : s.dropKey.tone = s.tone := rfl
@[simp] theorem State.dropKey_params : s.dropKey.params = s.params := rfl
@[simp] theorem State.dropKey_inputs : s.dropKey.inputs = s.inputs.dropKey := rfl
@[simp] theorem State.dropKey_reg (q : RegId) : s.dropKey.reg q = s.reg q := by simp [State.reg]
@[simp] theorem State.dropKey_slot (k : BitVec 4) : s.dropKey.slot k = s.slot k := by simp [State.slot]

/-! ### `dropRandom` -/

@[simp] theorem State.dropRandom_v : s.dropRandom.v = s.v := rfl
@[simp] theorem State.dropRandom_pc : s.dropRandom.pc = s.pc := rfl
@[simp] theorem State.dropRandom_idx : s.dropRandom.idx = s.idx := rfl
@[simp] theorem State.dropRandom_sp : s.dropRandom.sp = s.sp := rfl
@[simp] theorem State.dropRandom_stack : s.dropRandom.stack = s.stack := rfl
@[simp] theorem State.dropRandom_dt : s.dropRandom.dt = s.dt := rfl
@[simp] theorem State.dropRandom_st : s.dropRandom.st = s.st := rfl
@[simp] theorem State.dropRandom_mem : s.dropRandom.mem = s.mem := rfl
@[simp] theorem State.dropRandom_fb : s.dropRandom.fb = s.fb := rfl
@[simp] theorem State.dropRandom_lastKey : s.dropRandom.lastKey = s.lastKey := rfl
@[simp] theorem State.dropRandom_pollsSinceSeen : s.dropRandom.pollsSinceSeen = s.pollsSinceSeen := rfl
@[simp] theorem State.dropRandom_lastInstr : s.dropRandom.lastInstr = s.lastInstr := rfl
@[simp] theorem State.dropRandom_lastTimer : s.dropRandom.lastTimer = s.lastTimer := rfl
@[simp] theorem State.dropRandom_halted : s.dropRandom.halted = s.halted := rfl
@[simp] theorem State.dropRandom_fatal : s.dropRandom.fatal = s.fatal := rfl
@[simp] theorem State.dropRandom_exitCode : s.dropRandom.exitCode = s.exitCode := rfl
@[simp] theorem State.dropRandom_shown : s.dropRandom.shown = s.shown := rfl
@[simp] theorem State.dropRandom_tone : s.dropRandom.tone = s.tone := rfl
@[simp] theorem State.dropRandom_params : s.dropRandom.params = s.params := rfl
@[simp] theorem State.dropRandom_inputs : s.dropRandom.inputs = s.inputs.dropRandom := rfl
@[simp] theorem State.dropRandom_reg (q : RegId) : s.dropRandom.reg q = s.reg q := by simp [State.reg]
@[simp] theorem State.dropRandom_slot (k : BitVec 4) : s.dropRandom.slot k = s.slot k := by simp [State.slot]

/-! ### `decay` -/

@[simp] theorem State.decay_v (e : Option HostSymbol) : (s.decay e).v = s.v := rfl
@[simp] theorem State.decay_pc (e : Option HostSymbol) : (s.decay e).pc = s.pc := rfl
@[simp] theorem State.decay_idx (e : Option HostSymbol) : (s.decay e).idx = s.idx := rfl
@[simp] theorem State.decay_sp (e : Option HostSymbol) : (s.decay e).sp = s.sp := rfl
@[simp] theorem State.decay_stack (e : Option HostSymbol) : (s.decay e).stack = s.stack := rfl
@[simp] theorem State.decay_dt (e : Option HostSymbol) : (s.decay e).dt = s.dt := rfl
@[simp] theorem State.decay_st (e : Option HostSymbol) : (s.decay e).st = s.st := rfl
@[simp] theorem State.decay_mem (e : Option HostSymbol) : (s.decay e).mem = s.mem := rfl
@[simp] theorem State.decay_fb (e : Option HostSymbol) : (s.decay e).fb = s.fb := rfl
@[simp] theorem State.decay_lastKey (e : Option HostSymbol) : (s.decay e).lastKey = (decayed s.params s.lastKey s.pollsSinceSeen e).1 := rfl
@[simp] theorem State.decay_pollsSinceSeen (e : Option HostSymbol) : (s.decay e).pollsSinceSeen = (decayed s.params s.lastKey s.pollsSinceSeen e).2 := rfl
@[simp] theorem State.decay_lastInstr (e : Option HostSymbol) : (s.decay e).lastInstr = s.lastInstr := rfl
@[simp] theorem State.decay_lastTimer (e : Option HostSymbol) : (s.decay e).lastTimer = s.lastTimer := rfl
@[simp] theorem State.decay_halted (e : Option HostSymbol) : (s.decay e).halted = s.halted := rfl
@[simp] theorem State.decay_fatal (e : Option HostSymbol) : (s.decay e).fatal = s.fatal := rfl
@[simp] theorem State.decay_exitCode (e : Option HostSymbol) : (s.decay e).exitCode = s.exitCode := rfl
@[simp] theorem State.decay_shown (e : Option HostSymbol) : (s.decay e).shown = s.shown := rfl
@[simp] theorem State.decay_tone (e : Option HostSymbol) : (s.decay e).tone = s.tone := rfl
@[simp] theorem State.decay_params (e : Option HostSymbol) : (s.decay e).params = s.params := rfl
@[simp] theorem State.decay_inputs (e : Option HostSymbol) : (s.decay e).inputs = s.inputs := rfl
@[simp] theorem State.decay_reg (e : Option HostSymbol) (q : RegId) : (s.decay e).reg q = s.reg q := by simp [State.reg]
@[simp] theorem State.decay_slot (e : Option HostSymbol) (k : BitVec 4) : (s.decay e).slot k = s.slot k := by simp [State.slot]

/-! ### `markInstr` -/

@[simp] theorem State.markInstr_v (now : Int) : (s.markInstr now).v = s.v := rfl
@[simp] theorem State.markInstr_pc (now : Int) : (s.markInstr now).pc = s.pc := rfl
@[simp] theorem State.markInstr_idx (now : Int) : (s.markInstr now).idx = s.idx := rfl
@[simp] theorem State.markInstr_sp (now : Int) : (s.markInstr now).sp = s.sp := rfl
@[simp] theorem State.markInstr_stack (now : Int) : (s.markInstr now).stack = s.stack := rfl
@[simp] theorem State.markInstr_dt (now : Int) : (s.markInstr now).dt = s.dt := rfl
@[simp] theorem State.markInstr_st (now : Int) : (s.markInstr now).st = s.st := rfl
@[simp] theorem State.markInstr_mem (now : Int) : (s.markInstr now).mem = s.mem := rfl
@[simp] theorem State.markInstr_fb (now : Int) : (s.markInstr now).fb = s.fb := rfl
@[simp] theorem State.markInstr_lastKey (now : Int) : (s.markInstr now).lastKey = s.lastKey := rfl
@[simp] theorem State.markInstr_pollsSinceSeen (now : Int) : (s.markInstr now).pollsSinceSeen = s.pollsSinceSeen := rfl
@[simp] theorem State.markInstr_lastInstr (now : Int) : (s.markInstr now).lastInstr = now := rfl
@[simp] theorem State.markInstr_lastTimer (now : Int) : (s.markInstr now).lastTimer = s.lastTimer := rfl
@[simp] theorem State.markInstr_halted (now : Int) : (s.markInstr now).halted = s.halted := rfl
@[simp] theorem State.markInstr_fatal (now : Int) : (s.markInstr now).fatal = s.fatal := rfl
@[simp] theorem State.markInstr_exitCode (now : Int) : (s.markInstr now).exitCode = s.exitCode := rfl
@[simp] theorem State.markInstr_shown (now : Int) : (s.markInstr now).shown = s.shown := rfl
@[simp] theorem State.markInstr_tone (now : Int) : (s.markInstr now).tone = s.tone := rfl
@[simp] theorem State.markInstr_params (now : Int) : (s.markInstr now).params = s.params := rfl
@[simp] theorem State.markInstr_inputs (now : Int) : (s.markInstr now).inputs = s.inputs := rfl
@[simp] theorem State.markInstr_reg (now : Int) (q : RegId) : (s.markInstr now).reg q = s.reg q := by simp [State.reg]
@[simp] theorem State.markInstr_slot (now : Int) (k : BitVec 4) : (s.markInstr now).slot k = s.slot k := by simp [State.slot]

/-! ### `markTimer` -/

@[simp] theorem State.markTimer_v (now : Int) : (s.markTimer now).v = s.v := rfl
@[simp] theorem State.markTimer_pc (now : Int) : (s.markTimer now).pc = s.pc := rfl
@[simp] theorem State.markTimer_idx (now : Int) : (s.markTimer now).idx = s.idx := rfl
@[simp] theorem State.markTimer_sp (now : Int) : (s.markTimer now).sp = s.sp := rfl
@[simp] theorem State.markTimer_stack (now : Int) : (s.markTimer now).stack = s.stack := rfl
@[simp] theorem State.markTimer_dt (now : Int) : (s.markTimer now).dt = s.dt := rfl
@[simp] theorem State.markTimer_st (now : Int) : (s.markTimer now).st = s.st := rfl
@[simp] theorem State.markTimer_mem (now : Int) : (s.markTimer now).mem = s.mem := rfl
@[simp] theorem State.markTimer_fb (now : Int) : (s.markTimer now).fb = s.fb := rfl
@[simp] theorem State.markTimer_lastKey (now : Int) : (s.markTimer now).lastKey = s.lastKey := rfl
@[simp] theorem State.markTimer_pollsSinceSeen (now : Int) : (s.markTimer now).pollsSinceSeen = s.pollsSinceSeen := rfl
@[simp] theorem State.markTimer_lastInstr (now : Int) : (s.markTimer now).lastInstr = s.lastInstr := rfl
@[simp] theorem State.markTimer_lastTimer (now : Int) : (s.markTimer now).lastTimer = now := rfl
@[simp] theorem State.markTimer_halted (now : Int) : (s.markTimer now).halted = s.halted := rfl
@[simp] theorem State.markTimer_fatal (now : Int) : (s.markTimer now).fatal = s.fatal := rfl
@[simp] theorem State.markTimer_exitCode (now : Int) : (s.markTimer now).exitCode = s.exitCode := rfl
@[simp] theorem State.markTimer_shown (now : Int) : (s.markTimer now).shown = s.shown := rfl
@[simp] theorem State.markTimer_tone (now : Int) : (s.markTimer now).tone = s.tone := rfl
@[simp] theorem State.markTimer_params (now : Int) : (s.markTimer now).params = s.params := rfl
@[simp] theorem State.markTimer_inputs (now : Int) : (s.markTimer now).inputs = s.inputs := rfl
@[simp] theorem State.markTimer_reg (now : Int) (q : RegId) : (s.markTimer now).reg q = s.reg q := by simp [State.reg]
@[simp] theorem State.markTimer_slot (now : Int) (k : BitVec 4) : (s.markTimer now).slot k = s.slot k := by simp [State.slot]

/-! ### `acceptKey` -/

@[simp] theorem State.acceptKey_idx (x : RegId) (k : Option Key) : (s.acceptKey x k).idx = s.idx := rfl
@[simp] theorem State.acceptKey_sp (x : RegId) (k : Option Key) : (s.acceptKey x k).sp = s.sp := rfl
@[simp] theorem State.acceptKey_stack (x : RegId) (k : Option Key) : (s.acceptKey x k).stack = s.stack := rfl
@[simp] theorem State.acceptKey_dt (x : RegId) (k : Option Key) : (s.acceptKey x k).dt = s.dt := rfl
@[simp] theorem State.acceptKey_st (x : RegId) (k : Option Key) : (s.acceptKey x k).st = s.st := rfl
@[simp] theorem State.acceptKey_mem (x : RegId) (k : Option Key) : (s.acceptKey x k).mem = s.mem := rfl
@[simp] theorem State.acceptKey_fb (x : RegId) (k : Option Key) : (s.acceptKey x k).fb = s.fb := rfl
@[simp] theorem State.acceptKey_lastKey (x : RegId) (k : Option Key) : (s.acceptKey x k).lastKey = s.lastKey := rfl
@[simp] theorem State.acceptKey_pollsSinceSeen (x : RegId) (k : Option Key) : (s.acceptKey x k).pollsSinceSeen = s.pollsSinceSeen := rfl
@[simp] theorem State.acceptKey_lastInstr (x : RegId) (k : Option Key) : (s.acceptKey x k).lastInstr = s.lastInstr := rfl
@[simp] theorem State.acceptKey_lastTimer (x : RegId) (k : Option Key) : (s.acceptKey x k).lastTimer = s.lastTimer := rfl
@[simp] theorem State.acceptKey_halted (x : RegId) (k : Option Key) : (s.acceptKey x k).halted = s.halted := rfl
@[simp] theorem State.acceptKey_fatal (x : RegId) (k : Option Key) : (s.acceptKey x k).fatal = s.fatal := rfl
@[simp] theorem State.acceptKey_exitCode (x : RegId) (k : Option Key) : (s.acceptKey x k).exitCode = s.exitCode := rfl
@[simp] theorem State.acceptKey_shown (x : RegId) (k : Option Key) : (s.acceptKey x k).shown = s.shown := rfl
@[simp] theorem State.acceptKey_tone (x : RegId) (k : Option Key) : (s.acceptKey x k).tone = s.tone := rfl
@[simp] theorem State.acceptKey_params (x : RegId) (k : Option Key) : (s.acceptKey x k).params = s.params := rfl
@[simp] theorem State.acceptKey_inputs (x : RegId) (k : Option Key) : (s.acceptKey x k).inputs = s.inputs := rfl

/-! ### `keyDecayRead` -/

@[simp] theorem State.keyDecayRead_v : s.keyDecayRead.v = s.v := rfl
@[simp] theorem State.keyDecayRead_pc : s.keyDecayRead.pc = s.pc := rfl
@[simp] theorem State.keyDecayRead_idx : s.keyDecayRead.idx = s.idx := rfl
@[simp] theorem State.keyDecayRead_sp : s.keyDecayRead.sp = s.sp := rfl
@[simp] theorem State.keyDecayRead_stack : s.keyDecayRead.stack = s.stack := rfl
@[simp] theorem State.keyDecayRead_dt : s.keyDecayRead.dt = s.dt := rfl
@[simp] theorem State.keyDecayRead_st : s.keyDecayRead.st = s.st := rfl
@[simp] theorem State.keyDecayRead_mem : s.keyDecayRead.mem = s.mem := rfl
@[simp] theorem State.keyDecayRead_fb : s.keyDecayRead.fb = s.fb := rfl
@[simp] theorem State.keyDecayRead_lastKey : s.keyDecayRead.lastKey = (decayed s.params s.lastKey s.pollsSinceSeen s.nextKey).1 := rfl
@[simp] theorem State.keyDecayRead_pollsSinceSeen : s.keyDecayRead.pollsSinceSeen = (decayed s.params s.lastKey s.pollsSinceSeen s.nextKey).2 := rfl
@[simp] theorem State.keyDecayRead_lastInstr : s.keyDecayRead.lastInstr = s.lastInstr := rfl
@[simp] theorem State.keyDecayRead_lastTimer : s.keyDecayRead.lastTimer = s.lastTimer := rfl
@[simp] theorem State.keyDecayRead_halted : s.keyDecayRead.halted = s.halted := rfl
@[simp] theorem State.keyDecayRead_fatal : s.keyDecayRead.fatal = s.fatal := rfl
@[simp] theorem State.keyDecayRead_exitCode : s.keyDecayRead.exitCode = s.exitCode := rfl
@[simp] theorem State.keyDecayRead_shown : s.keyDecayRead.shown = s.shown := rfl
@[simp] theorem State.keyDecayRead_tone : s.keyDecayRead.tone = s.tone := rfl
@[simp] theorem State.keyDecayRead_params : s.keyDecayRead.params = s.params := rfl
@[simp] theorem State.keyDecayRead_inputs : s.keyDecayRead.inputs = s.inputs.dropKey := rfl
@[simp] theorem State.keyDecayRead_reg (q : RegId) : s.keyDecayRead.reg q = s.reg q := by simp [State.reg]
@[simp] theorem State.keyDecayRead_slot (k : BitVec 4) : s.keyDecayRead.slot k = s.slot k := by simp [State.slot]

/-! ### The registers and the stack by number -/

theorem State.reg_setReg (r q : RegId) (b : Byte) : (s.setReg r b).reg q = if q = r then b else s.reg q := by
  simp only [State.reg, State.setReg_v, Vector.getElem_set, BitVec.toNat_inj, eq_comm]

@[simp] theorem State.reg_setReg_self (r : RegId) (b : Byte) : (s.setReg r b).reg r = b := by simp [State.reg_setReg]

theorem State.reg_setReg_ne {r q : RegId} (h : q ≠ r) (b : Byte) : (s.setReg r b).reg q = s.reg q := by
  simp [State.reg_setReg, h]

theorem State.slot_push (k : BitVec 4) (a : Word) : (s.push a).slot k = if k = s.sp + 1 then a else s.slot k := by
  simp only [State.slot, State.push_stack, Vector.getElem_set, BitVec.toNat_inj, eq_comm]

@[simp] theorem State.setFlag_eq (f : Bool) : s.setFlag f = s.setReg flagReg (flagByte f) := rfl

@[simp] theorem State.resultThenFlag_eq (x : RegId) (b : Byte) (f : Bool) :
    s.resultThenFlag x b f = (s.setReg x b).setReg flagReg (flagByte f) := rfl

@[simp] theorem State.acceptKey_none (x : RegId) : s.acceptKey x none = s := rfl

@[simp] theorem State.acceptKey_some (x : RegId) (k : Key) :
    s.acceptKey x (some k) = (s.setReg x (zextKey k)).advance := rfl

@[simp] theorem State.acceptKey_slot (x : RegId) (k : Option Key) (j : BitVec 4) : (s.acceptKey x k).slot j = s.slot j := rfl

/-- Two register files with the same registers are the same. -/
theorem State.v_ext {t : State} (h : ∀ r, t.reg r = s.reg r) : t.v = s.v := by
  apply Vector.ext
  intro k hk
  simpa [State.reg, Nat.mod_eq_of_lt hk] using h (BitVec.ofNat 4 k)

end Sys2Proof.Machine
end

