-- ==== Sys2Proof/Laws/Display.lean ====
section
/-! SUPPORT. The framebuffer: what one flipped pixel, one sprite row and a whole sprite do to every pixel and to the collision
flag (43_display R171). -/

namespace Sys2Proof.Machine

/-- Every pixel of a blank frame is 0 (R170). -/
@[simp] theorem Frame.pixel_blank (x y : Nat) : Frame.pixel Frame.blank x y = false := by
  by_cases hy : y < 32 <;> simp [Frame.pixel, Frame.row, Frame.blank, hy]

/-- Two frames with the same pixels are the same. -/
theorem Frame.ext_pixel {f g : Frame} (h : ∀ x y, x < 64 → y < 32 → Frame.pixel f x y = Frame.pixel g x y) : f = g := by
  apply Vector.ext
  intro y hy
  apply BitVec.eq_of_getLsbD_eq
  intro x hx
  simpa [Frame.pixel, Frame.row, hy] using h x y hx hy

/-- Flipping one pixel inverts it and leaves every other pixel alone. -/
theorem Frame.pixel_flip (f : Frame) {x y x' y' : Nat} (hx : x < 64) (hy : y < 32) :
    Frame.pixel (Frame.flip f x y) x' y' = (Frame.pixel f x' y' ^^ decide (x' = x ∧ y' = y)) := by
  simp only [Frame.pixel, Frame.flip, Frame.row, Vector.getElem?_setIfInBounds]
  by_cases h : y = y'
  · subst h
    simp only [if_true, hy, Option.getD_some, BitVec.getLsbD_xor, BitVec.getLsbD_twoPow]
    congr 1
    simp [hx, eq_comm]
  · simp [h, Ne.symm h]

/-- What the first `n` bits of a sprite byte do to a pixel. -/
theorem plotRow_pixel (b : Byte) {ox py x y : Nat} (hy : py < 32) (hx : x < 64) (c : Frame × Bool) : ∀ n,
    Frame.pixel (plotRow b ox py n c).1 x y =
      (Frame.pixel c.1 x y ^^ (decide (y = py ∧ ox ≤ x ∧ x < ox + n) && b.getLsbD (7 - (x - ox))))
  | 0 => by
    have : ¬ (y = py ∧ ox ≤ x ∧ x < ox + 0) := by omega
    rw [plotRow, decide_eq_false this, Bool.false_and, Bool.xor_false]
  | n + 1 => by
    have ih := plotRow_pixel b (x := x) (y := y) (ox := ox) hy hx c n
    rw [plotRow, plotBit]
    split
    · rename_i h
      rw [Frame.pixel_flip _ (by omega) hy, ih]
      by_cases hxj : x = ox + n ∧ y = py
      · obtain ⟨rfl, rfl⟩ := hxj
        simp [h.2]
      · have e : (y = py ∧ ox ≤ x ∧ x < ox + (n + 1)) ↔ (y = py ∧ ox ≤ x ∧ x < ox + n) := by omega
        simp only [hxj, decide_false, Bool.xor_false, e]
    · rename_i h
      rw [ih]
      by_cases hxj : x = ox + n ∧ y = py
      · obtain ⟨rfl, rfl⟩ := hxj
        have hb : b.getLsbD (7 - n) = false := by
          cases hb : b.getLsbD (7 - n)
          · rfl
          · exact absurd ⟨by omega, hb⟩ h
        simp [hb]
      · have e : (y = py ∧ ox ≤ x ∧ x < ox + (n + 1)) ↔ (y = py ∧ ox ≤ x ∧ x < ox + n) := by omega
        simp only [e]

/-- The collision flag after the first `n` bits of a sprite byte: no pixel is visited twice, so each test sees the frame as it was. -/
theorem plotRow_flag (b : Byte) {ox py : Nat} (hy : py < 32) (c : Frame × Bool) : ∀ n,
    (plotRow b ox py n c).2 = true ↔
      c.2 = true ∨ ∃ j, j < n ∧ ox + j ≤ 63 ∧ b.getLsbD (7 - j) = true ∧ Frame.pixel c.1 (ox + j) py = true
  | 0 => by simp [plotRow]
  | n + 1 => by
    have ih := plotRow_flag b (ox := ox) hy c n
    have hlast : (∃ j, j < n + 1 ∧ ox + j ≤ 63 ∧ b.getLsbD (7 - j) = true ∧ Frame.pixel c.1 (ox + j) py = true) ↔
        (∃ j, j < n ∧ ox + j ≤ 63 ∧ b.getLsbD (7 - j) = true ∧ Frame.pixel c.1 (ox + j) py = true) ∨
        (ox + n ≤ 63 ∧ b.getLsbD (7 - n) = true ∧ Frame.pixel c.1 (ox + n) py = true) := by
      constructor
      · rintro ⟨j, hj, h⟩
        rcases Nat.lt_succ_iff_lt_or_eq.mp hj with hj | rfl
        · exact .inl ⟨j, hj, h⟩
        · exact .inr h
      · rintro (⟨j, hj, h⟩ | h)
        · exact ⟨j, by omega, h⟩
        · exact ⟨n, by omega, h⟩
    rw [plotRow, plotBit, hlast]
    split
    · rename_i h
      have hp : Frame.pixel (plotRow b ox py n c).1 (ox + n) py = Frame.pixel c.1 (ox + n) py := by
        rw [plotRow_pixel b hy (by omega) c n]
        simp
      simp only [Bool.or_eq_true, ih, hp, h.1, h.2, true_and, or_assoc]
    · rename_i h
      have : ¬ (ox + n ≤ 63 ∧ b.getLsbD (7 - n) = true ∧ Frame.pixel c.1 (ox + n) py = true) :=
        fun e => h ⟨e.1, e.2.1⟩
      simp only [ih, this, or_false]

/-- What a whole sprite does to a pixel. -/
theorem plotRows_pixel (m : Memory) (base : Nat) {ox oy x y : Nat} (hx : x < 64) (c : Frame × Bool) : ∀ n, oy + n ≤ 32 →
    Frame.pixel (plotRows m base ox oy n c).1 x y =
      (Frame.pixel c.1 x y ^^ (decide (oy ≤ y ∧ y < oy + n ∧ ox ≤ x ∧ x < ox + 8) &&
        (m.byte (base + (y - oy))).getLsbD (7 - (x - ox))))
  | 0, _ => by
    have : ¬ (oy ≤ y ∧ y < oy + 0 ∧ ox ≤ x ∧ x < ox + 8) := by omega
    rw [plotRows, decide_eq_false this, Bool.false_and, Bool.xor_false]
  | n + 1, hn => by
    rw [plotRows, plotRow_pixel _ (by omega) hx, plotRows_pixel m base hx c n (by omega)]
    by_cases hy : y = oy + n
    · subst hy
      simp
    · have e1 : ¬ (y = oy + n ∧ ox ≤ x ∧ x < ox + 8) := by omega
      have e2 : (oy ≤ y ∧ y < oy + (n + 1) ∧ ox ≤ x ∧ x < ox + 8) ↔ (oy ≤ y ∧ y < oy + n ∧ ox ≤ x ∧ x < ox + 8) := by
        omega
      simp only [e1, e2, decide_false, Bool.false_and, Bool.xor_false]

/-- The collision flag after a whole sprite, in terms of the frame before it. -/
theorem plotRows_flag (m : Memory) (base : Nat) {ox oy : Nat} (c : Frame × Bool) : ∀ n, oy + n ≤ 32 →
    ((plotRows m base ox oy n c).2 = true ↔ c.2 = true ∨
      ∃ i j, i < n ∧ j < 8 ∧ ox + j ≤ 63 ∧ (m.byte (base + i)).getLsbD (7 - j) = true ∧
        Frame.pixel c.1 (ox + j) (oy + i) = true)
  | 0, _ => by simp [plotRows]
  | n + 1, hn => by
    have ih := plotRows_flag m base (ox := ox) (oy := oy) c n (by omega)
    have hp : ∀ j, ox + j ≤ 63 →
        Frame.pixel (plotRows m base ox oy n c).1 (ox + j) (oy + n) = Frame.pixel c.1 (ox + j) (oy + n) := by
      intro j hj
      rw [plotRows_pixel m base (by omega) c n (by omega)]
      simp
    rw [plotRows, plotRow_flag _ (by omega), ih, or_assoc]
    refine or_congr_right ⟨?_, ?_⟩
    · rintro (⟨i, j, hi, h⟩ | ⟨j, hj, h1, h2, h3⟩)
      · exact ⟨i, j, by omega, h⟩
      · exact ⟨n, j, by omega, hj, h1, h2, by rwa [hp j h1] at h3⟩
    · rintro ⟨i, j, hi, hj, h1, h2, h3⟩
      rcases Nat.lt_succ_iff_lt_or_eq.mp hi with hi | rfl
      · exact .inl ⟨i, j, hi, hj, h1, h2, h3⟩
      · exact .inr ⟨j, hj, h1, h2, by rwa [hp j h1]⟩

/-- The drawn rows stay on the screen. -/
theorem visibleRows_le (n oy : Nat) (h : oy < 32) : oy + visibleRows n oy ≤ 32 := by
  unfold visibleRows
  omega

/-- A covered pixel is one that the sprite's bits select. -/
theorem spriteCovers_iff (m : Memory) (base ox oy rows x y : Nat) : SpriteCovers m base ox oy rows x y ↔
    (decide (oy ≤ y ∧ y < oy + rows ∧ ox ≤ x ∧ x < ox + 8) && (m.byte (base + (y - oy))).getLsbD (7 - (x - ox))) = true := by
  simp only [SpriteCovers, Bool.and_eq_true, decide_eq_true_eq]
  constructor
  · rintro ⟨i, j, hi, hj, rfl, rfl, h⟩
    simpa [hi, hj] using h
  · rintro ⟨⟨h1, h2, h3, h4⟩, h⟩
    exact ⟨y - oy, x - ox, by omega, by omega, by omega, by omega, h⟩

end Sys2Proof.Machine
end

