-- ==== Sys2Proof/Laws/Memory.lean ====
section
/-! SUPPORT. Memory: a read after a write, and that every memory operation keeps the canonical form. -/

namespace Sys2Proof.Machine

/-! ### One write -/

/-- A write leaves every other address alone (R56). -/
theorem Memory.byte_put_ne {a a' : Nat} (h : a' ≠ a) (v : Byte) : ∀ m : Memory, (m.put a v).byte a' = m.byte a'
  | [] => by
    by_cases hv : v = unlisted a <;> simp [Memory.put, Memory.byte, hv, Ne.symm h]
  | (k, b) :: rest => by
    have ih := Memory.byte_put_ne h v rest
    simp only [Memory.put]
    split
    · split
      · rfl
      · simp [Memory.byte, Ne.symm h]
    · split
      · rename_i hk
        subst hk
        split <;> simp [Memory.byte, Ne.symm h]
      · simp [Memory.byte, ih]

/-- In a memory whose listed addresses are all above `a`, `a` reads as unlisted. -/
theorem Memory.byte_of_all_gt {a : Nat} : ∀ m : Memory, (m.all fun c => decide (a < c.1)) = true → m.byte a = unlisted a
  | [], _ => rfl
  | (k, b) :: rest, h => by
    simp only [List.all_cons, Bool.and_eq_true, decide_eq_true_eq] at h
    have : k ≠ a := by omega
    simpa [Memory.byte, this] using Memory.byte_of_all_gt rest h.2

theorem Memory.all_gt_mono {a k : Nat} (h : a < k) {m : Memory} (hm : (m.all fun c => decide (k < c.1)) = true) :
    (m.all fun c => decide (a < c.1)) = true := by
  simp only [List.all_eq_true, decide_eq_true_eq] at hm ⊢
  intro c hc
  exact h.trans (hm c hc)

/-- A read after a write to the same address gives the value written (R56). -/
theorem Memory.byte_put_self (a : Nat) (v : Byte) : ∀ m : Memory, m.wf = true → (m.put a v).byte a = v
  | [], _ => by
    by_cases hv : v = unlisted a <;> simp [Memory.put, Memory.byte, hv]
  | (k, b) :: rest, h => by
    simp only [Memory.wf, Bool.and_eq_true, decide_eq_true_eq] at h
    obtain ⟨⟨⟨_, _⟩, hgt⟩, hrest⟩ := h
    simp only [Memory.put]
    split
    · rename_i hk
      split
      · rename_i hv
        have : k ≠ a := by omega
        simpa [Memory.byte, this, hv] using Memory.byte_of_all_gt rest (Memory.all_gt_mono hk hgt)
      · simp [Memory.byte]
    · split
      · rename_i hk
        subst hk
        split
        · rename_i hv
          simpa [hv] using Memory.byte_of_all_gt rest hgt
        · simp [Memory.byte]
      · rename_i hk
        have : k ≠ a := fun e => hk e.symm
        simpa [Memory.byte, this] using Memory.byte_put_self a v rest hrest

/-- A write keeps listed addresses above a bound below it. -/
theorem Memory.all_gt_put {a k : Nat} (h : k < a) (v : Byte) : ∀ m : Memory,
    (m.all fun c => decide (k < c.1)) = true → ((m.put a v).all fun c => decide (k < c.1)) = true
  | [], _ => by by_cases hv : v = unlisted a <;> simp [Memory.put, hv, h]
  | (j, b) :: rest, hm => by
    have ih := Memory.all_gt_put h v rest
    have hm' := hm
    simp only [List.all_cons, Bool.and_eq_true, decide_eq_true_eq] at hm
    simp only [Memory.put]
    split
    · split
      · exact hm'
      · simpa [h] using hm
    · split
      · split
        · exact hm.2
        · simpa [h] using hm.2
      · simpa [hm.1] using ih hm.2

/-- A write to an address that exists keeps the canonical form. -/
theorem Memory.wf_put {a : Nat} (ha : a < 4096) (v : Byte) : ∀ m : Memory, m.wf = true → (m.put a v).wf = true
  | [], _ => by by_cases hv : v = unlisted a <;> simp [Memory.put, Memory.wf, hv, ha]
  | (k, b) :: rest, h => by
    have hwf := h
    simp only [Memory.wf, Bool.and_eq_true, decide_eq_true_eq] at h
    obtain ⟨⟨⟨hk, hb⟩, hgt⟩, hrest⟩ := h
    simp only [Memory.put]
    split
    · rename_i hlt
      split
      · exact hwf
      · rename_i hv
        rw [Memory.wf, Bool.and_eq_true, Bool.and_eq_true, Bool.and_eq_true]
        refine ⟨⟨⟨by simpa using ha, by simpa using hv⟩, ?_⟩, hwf⟩
        rw [List.all_cons, Bool.and_eq_true]
        exact ⟨by simpa using hlt, Memory.all_gt_mono hlt hgt⟩
    · split
      · rename_i hlt hak
        subst hak
        split
        · exact hrest
        · rename_i hv
          simp [Memory.wf, ha, hv, hgt, hrest]
      · rename_i hlt hne
        have hlt' : k < a := by omega
        simp [Memory.wf, hk, hb, Memory.all_gt_put hlt' v rest hgt, Memory.wf_put ha v rest hrest]

/-- Memory at reset lists nothing. -/
theorem State.reset_mem_wf : State.reset.mem.wf = true := rfl

/-! ### Several writes -/

/-- The loader's copy leaves every address outside the copied range alone. -/
theorem Memory.byte_putList_outside {a' : Nat} : ∀ (bs : List Byte) (m : Memory) (a : Nat),
    a' < a ∨ a + bs.length ≤ a' → (m.putList a bs).byte a' = m.byte a'
  | [], _, _, _ => rfl
  | b :: rest, m, a, h => by
    simp only [List.length_cons] at h
    rw [Memory.putList, Memory.byte_putList_outside rest _ _ (by omega), Memory.byte_put_ne (by omega)]

theorem Memory.wf_putList : ∀ (bs : List Byte) (m : Memory) (a : Nat),
    a + bs.length ≤ 4096 → m.wf = true → (m.putList a bs).wf = true
  | [], _, _, _, h => h
  | b :: rest, m, a, ha, h => by
    simp only [List.length_cons] at ha
    exact Memory.wf_putList rest _ _ (by omega) (Memory.wf_put (by omega) b m h)

/-- Each copied address reads as its byte. -/
theorem Memory.byte_putList_inside : ∀ (bs : List Byte) (m : Memory) (a j : Nat) (hj : j < bs.length),
    a + bs.length ≤ 4096 → m.wf = true → (m.putList a bs).byte (a + j) = bs[j]
  | b :: rest, m, a, 0, _, ha, h => by
    simp only [List.length_cons] at ha
    rw [Memory.putList, Memory.byte_putList_outside rest _ _ (by omega)]
    exact Memory.byte_put_self a b m h
  | b :: rest, m, a, j + 1, hj, ha, h => by
    simp only [List.length_cons] at ha hj
    have := Memory.byte_putList_inside rest (m.put a b) (a + 1) j (by omega) (by omega)
      (Memory.wf_put (by omega) b m h)
    simpa [Memory.putList, Nat.add_assoc, Nat.add_comm 1 j] using this

/-! ### The two loops over `I + i` -/

theorem storeRange_outside (s : State) (base a : Nat) : ∀ n, a < base ∨ base + n ≤ a →
    (storeRange s base n).byte a = s.mem.byte a
  | 0, _ => rfl
  | k + 1, h => by
    rw [storeRange, Memory.byte_put_ne (by omega), storeRange_outside s base a k (by omega)]

theorem wf_storeRange (s : State) (base : Nat) (h : s.mem.wf = true) : ∀ n, base + n ≤ 4096 →
    (storeRange s base n).wf = true
  | 0, _ => h
  | k + 1, hn => Memory.wf_put (by omega) _ _ (wf_storeRange s base h k (by omega))

theorem storeRange_inside (s : State) (base : Nat) (h : s.mem.wf = true) : ∀ n j, j < n → base + n ≤ 4096 →
    (storeRange s base n).byte (base + j) = s.reg (BitVec.ofNat 4 j)
  | k + 1, j, hj, hn => by
    rw [storeRange]
    by_cases hjk : j = k
    · subst hjk
      exact Memory.byte_put_self _ _ _ (wf_storeRange s base h j (by omega))
    · rw [Memory.byte_put_ne (by omega), storeRange_inside s base h k j (by omega) (by omega)]

/-- load-regs writes general registers only. -/
theorem loadRange_rest (s : State) (base : Nat) : ∀ n, loadRange s base n = { s with v := (loadRange s base n).v }
  | 0 => rfl
  | k + 1 => by
    have ih := loadRange_rest s base k
    rw [loadRange, ih]
    rfl

/-- The first `n` registers get their bytes, the others stay (R155). -/
theorem loadRange_reg (s : State) (base : Nat) (r : RegId) : ∀ n, n ≤ 16 →
    (loadRange s base n).reg r = if r.toNat < n then s.mem.byte (base + r.toNat) else s.reg r
  | 0, _ => by simp [loadRange]
  | k + 1, hk => by
    rw [loadRange, State.reg_setReg, loadRange_reg s base r k (by omega)]
    have hr : r = BitVec.ofNat 4 k ↔ r.toNat = k := by
      rw [← BitVec.toNat_inj, BitVec.toNat_ofNat, Nat.mod_eq_of_lt (by omega)]
    by_cases h : r.toNat = k
    · rw [if_pos (hr.mpr h), if_pos (by omega), h]
    · have : r ≠ BitVec.ofNat 4 k := fun e => h (hr.mp e)
      have e : (r.toNat < k + 1) ↔ (r.toNat < k) := by omega
      simp [this, e]

/-! ### Reads and ranges -/

theorem Memory.read_eq_some {m : Memory} {a : Nat} (h : a ≤ 4095) : m.read a = some (m.byte a) := by
  simp [Memory.read, Nat.not_lt.mpr h]

theorem Memory.read_eq_none {m : Memory} {a : Nat} (h : 4095 < a) : m.read a = none := by
  simp [Memory.read, h]

/-- The word at `pc` where both bytes exist (R59, R81). -/
theorem State.fetchWord_eq_some {s : State} (h : s.pc.toNat ≤ 4094) :
    s.fetchWord = some (s.mem.byte s.pc.toNat ++ s.mem.byte (s.pc.toNat + 1)) := by
  simp only [State.fetchWord, Memory.read_eq_some (show s.pc.toNat ≤ 4095 by omega),
    Memory.read_eq_some (show s.pc.toNat + 1 ≤ 4095 by omega)]

theorem State.fetchWord_eq_none {s : State} (h : 4094 < s.pc.toNat) : s.fetchWord = none := by
  rw [State.fetchWord, Memory.read_eq_none (show 4095 < s.pc.toNat + 1 by omega)]
  split <;> simp_all

theorem outOfRange_eq_none {base count : Nat} : outOfRange base count = none ↔ count = 0 ∨ base + count ≤ 4096 := by
  unfold outOfRange
  split <;> simp <;> omega

theorem outOfRange_eq_some {base count a : Nat} :
    outOfRange base count = some a ↔ 1 ≤ count ∧ 4096 < base + count ∧ a = max base 4096 := by
  unfold outOfRange
  split <;> simp <;> omega

/-- Bounds before effects (R57), both ways. -/
theorem State.withRange_ok {s : State} {n : Nat} {o : Outcome} (h : n = 0 ∨ s.idx.toNat + n ≤ 4096) :
    s.withRange n o = o := by
  rw [State.withRange, outOfRange_eq_none.mpr h]

theorem State.withRange_fatal {s : State} {n : Nat} {o : Outcome} (h1 : 1 ≤ n) (h : 4096 < s.idx.toNat + n) :
    s.withRange n o = s.raise .memoryOutOfRange (max s.idx.toNat 4096) := by
  rw [State.withRange, outOfRange_eq_some.mpr ⟨h1, h, rfl⟩]

theorem State.withRange_cases (s : State) (n : Nat) (o : Outcome) :
    s.withRange n o = o ∧ (n = 0 ∨ s.idx.toNat + n ≤ 4096) ∨
    s.withRange n o = s.raise .memoryOutOfRange (max s.idx.toNat 4096) ∧ 1 ≤ n ∧ 4096 < s.idx.toNat + n := by
  by_cases h : n = 0 ∨ s.idx.toNat + n ≤ 4096
  · exact .inl ⟨State.withRange_ok h, h⟩
  · exact .inr ⟨State.withRange_fatal (by omega) (by omega), by omega, by omega⟩

end Sys2Proof.Machine
end

