-- ==== Sys2Proof/Laws/PerInstr.lean ====
section
/-! SUPPORT. Statements about every instruction as syntax, one lemma per constructor. -/

namespace Sys2Proof.Laws

/-- An assembler accepts the line an instruction is written as and gives its canonical word (30_encoding R96). -/
def Canonical.Statement (i : Instr) : Prop :=
  i.wellFormed = true ∧ i.line.read = some i ∧ assemble i.line = some (encode i)

/-- The last part follows from the other two. -/
theorem canonical_of_read {i : Instr} (h : i.wellFormed = true) (hr : i.line.read = some i) : Canonical.Statement i :=
  ⟨h, hr, by simp [assemble, show i.line.wellFormed = true from h, hr]⟩

theorem Canonical.clearScreen : Canonical.Statement (.clearScreen) :=
  canonical_of_read rfl rfl

theorem Canonical.ret : Canonical.Statement (.ret) :=
  canonical_of_read rfl rfl

theorem Canonical.jump (nnn : Addr) : Canonical.Statement (.jump nnn) :=
  canonical_of_read (by simp [Instr.wellFormed, Line.wellFormed, Instr.line, Op.operands, operandsFit, Operand.fits, nnn.isLt])
    (by simp [Instr.line, Line.read])

theorem Canonical.call (nnn : Addr) : Canonical.Statement (.call nnn) :=
  canonical_of_read (by simp [Instr.wellFormed, Line.wellFormed, Instr.line, Op.operands, operandsFit, Operand.fits, nnn.isLt])
    (by simp [Instr.line, Line.read])

theorem Canonical.skipEqImm (x : RegId) (kk : Byte) : Canonical.Statement (.skipEqImm x kk) :=
  canonical_of_read (by simp [Instr.wellFormed, Line.wellFormed, Instr.line, Op.operands, operandsFit, Operand.fits, x.isLt, kk.isLt])
    (by simp [Instr.line, Line.read])

theorem Canonical.skipNeqImm (x : RegId) (kk : Byte) : Canonical.Statement (.skipNeqImm x kk) :=
  canonical_of_read (by simp [Instr.wellFormed, Line.wellFormed, Instr.line, Op.operands, operandsFit, Operand.fits, x.isLt, kk.isLt])
    (by simp [Instr.line, Line.read])

theorem Canonical.skipEqReg (x : RegId) (y : RegId) : Canonical.Statement (.skipEqReg x y) :=
  canonical_of_read (by simp [Instr.wellFormed, Line.wellFormed, Instr.line, Op.operands, operandsFit, Operand.fits, x.isLt, y.isLt])
    (by simp [Instr.line, Line.read])

theorem Canonical.skipNeqReg (x : RegId) (y : RegId) : Canonical.Statement (.skipNeqReg x y) :=
  canonical_of_read (by simp [Instr.wellFormed, Line.wellFormed, Instr.line, Op.operands, operandsFit, Operand.fits, x.isLt, y.isLt])
    (by simp [Instr.line, Line.read])

theorem Canonical.loadImm (x : RegId) (kk : Byte) : Canonical.Statement (.loadImm x kk) :=
  canonical_of_read (by simp [Instr.wellFormed, Line.wellFormed, Instr.line, Op.operands, operandsFit, Operand.fits, x.isLt, kk.isLt])
    (by simp [Instr.line, Line.read])

theorem Canonical.addImm (x : RegId) (kk : Byte) : Canonical.Statement (.addImm x kk) :=
  canonical_of_read (by simp [Instr.wellFormed, Line.wellFormed, Instr.line, Op.operands, operandsFit, Operand.fits, x.isLt, kk.isLt])
    (by simp [Instr.line, Line.read])

theorem Canonical.move (x : RegId) (y : RegId) : Canonical.Statement (.move x y) :=
  canonical_of_read (by simp [Instr.wellFormed, Line.wellFormed, Instr.line, Op.operands, operandsFit, Operand.fits, x.isLt, y.isLt])
    (by simp [Instr.line, Line.read])

theorem Canonical.bitOr (x : RegId) (y : RegId) : Canonical.Statement (.bitOr x y) :=
  canonical_of_read (by simp [Instr.wellFormed, Line.wellFormed, Instr.line, Op.operands, operandsFit, Operand.fits, x.isLt, y.isLt])
    (by simp [Instr.line, Line.read])

theorem Canonical.bitAnd (x : RegId) (y : RegId) : Canonical.Statement (.bitAnd x y) :=
  canonical_of_read (by simp [Instr.wellFormed, Line.wellFormed, Instr.line, Op.operands, operandsFit, Operand.fits, x.isLt, y.isLt])
    (by simp [Instr.line, Line.read])

theorem Canonical.bitXor (x : RegId) (y : RegId) : Canonical.Statement (.bitXor x y) :=
  canonical_of_read (by simp [Instr.wellFormed, Line.wellFormed, Instr.line, Op.operands, operandsFit, Operand.fits, x.isLt, y.isLt])
    (by simp [Instr.line, Line.read])

theorem Canonical.add (x : RegId) (y : RegId) : Canonical.Statement (.add x y) :=
  canonical_of_read (by simp [Instr.wellFormed, Line.wellFormed, Instr.line, Op.operands, operandsFit, Operand.fits, x.isLt, y.isLt])
    (by simp [Instr.line, Line.read])

theorem Canonical.sub (x : RegId) (y : RegId) : Canonical.Statement (.sub x y) :=
  canonical_of_read (by simp [Instr.wellFormed, Line.wellFormed, Instr.line, Op.operands, operandsFit, Operand.fits, x.isLt, y.isLt])
    (by simp [Instr.line, Line.read])

theorem Canonical.shr (x : RegId) : Canonical.Statement (.shr x) :=
  canonical_of_read (by simp [Instr.wellFormed, Line.wellFormed, Instr.line, Op.operands, operandsFit, Operand.fits, x.isLt])
    (by simp [Instr.line, Line.read])

theorem Canonical.subn (x : RegId) (y : RegId) : Canonical.Statement (.subn x y) :=
  canonical_of_read (by simp [Instr.wellFormed, Line.wellFormed, Instr.line, Op.operands, operandsFit, Operand.fits, x.isLt, y.isLt])
    (by simp [Instr.line, Line.read])

theorem Canonical.shl (x : RegId) : Canonical.Statement (.shl x) :=
  canonical_of_read (by simp [Instr.wellFormed, Line.wellFormed, Instr.line, Op.operands, operandsFit, Operand.fits, x.isLt])
    (by simp [Instr.line, Line.read])

theorem Canonical.setIndex (nnn : Addr) : Canonical.Statement (.setIndex nnn) :=
  canonical_of_read (by simp [Instr.wellFormed, Line.wellFormed, Instr.line, Op.operands, operandsFit, Operand.fits, nnn.isLt])
    (by simp [Instr.line, Line.read])

theorem Canonical.jumpOffset (nnn : Addr) : Canonical.Statement (.jumpOffset nnn) :=
  canonical_of_read (by simp [Instr.wellFormed, Line.wellFormed, Instr.line, Op.operands, operandsFit, Operand.fits, nnn.isLt])
    (by simp [Instr.line, Line.read])

theorem Canonical.random (x : RegId) (kk : Byte) : Canonical.Statement (.random x kk) :=
  canonical_of_read (by simp [Instr.wellFormed, Line.wellFormed, Instr.line, Op.operands, operandsFit, Operand.fits, x.isLt, kk.isLt])
    (by simp [Instr.line, Line.read])

theorem Canonical.draw (x : RegId) (y : RegId) (n : Nibble) : Canonical.Statement (.draw x y n) :=
  canonical_of_read (by simp [Instr.wellFormed, Line.wellFormed, Instr.line, Op.operands, operandsFit, Operand.fits, x.isLt, y.isLt, n.isLt])
    (by simp [Instr.line, Line.read])

theorem Canonical.skipIfKey (x : RegId) : Canonical.Statement (.skipIfKey x) :=
  canonical_of_read (by simp [Instr.wellFormed, Line.wellFormed, Instr.line, Op.operands, operandsFit, Operand.fits, x.isLt])
    (by simp [Instr.line, Line.read])

theorem Canonical.skipIfNotKey (x : RegId) : Canonical.Statement (.skipIfNotKey x) :=
  canonical_of_read (by simp [Instr.wellFormed, Line.wellFormed, Instr.line, Op.operands, operandsFit, Operand.fits, x.isLt])
    (by simp [Instr.line, Line.read])

theorem Canonical.getDelay (x : RegId) : Canonical.Statement (.getDelay x) :=
  canonical_of_read (by simp [Instr.wellFormed, Line.wellFormed, Instr.line, Op.operands, operandsFit, Operand.fits, x.isLt])
    (by simp [Instr.line, Line.read])

theorem Canonical.waitKey (x : RegId) : Canonical.Statement (.waitKey x) :=
  canonical_of_read (by simp [Instr.wellFormed, Line.wellFormed, Instr.line, Op.operands, operandsFit, Operand.fits, x.isLt])
    (by simp [Instr.line, Line.read])

theorem Canonical.setDelay (x : RegId) : Canonical.Statement (.setDelay x) :=
  canonical_of_read (by simp [Instr.wellFormed, Line.wellFormed, Instr.line, Op.operands, operandsFit, Operand.fits, x.isLt])
    (by simp [Instr.line, Line.read])

theorem Canonical.setSound (x : RegId) : Canonical.Statement (.setSound x) :=
  canonical_of_read (by simp [Instr.wellFormed, Line.wellFormed, Instr.line, Op.operands, operandsFit, Operand.fits, x.isLt])
    (by simp [Instr.line, Line.read])

theorem Canonical.addIndex (x : RegId) : Canonical.Statement (.addIndex x) :=
  canonical_of_read (by simp [Instr.wellFormed, Line.wellFormed, Instr.line, Op.operands, operandsFit, Operand.fits, x.isLt])
    (by simp [Instr.line, Line.read])

theorem Canonical.fontAddress (x : RegId) : Canonical.Statement (.fontAddress x) :=
  canonical_of_read (by simp [Instr.wellFormed, Line.wellFormed, Instr.line, Op.operands, operandsFit, Operand.fits, x.isLt])
    (by simp [Instr.line, Line.read])

theorem Canonical.storeBcd (x : RegId) : Canonical.Statement (.storeBcd x) :=
  canonical_of_read (by simp [Instr.wellFormed, Line.wellFormed, Instr.line, Op.operands, operandsFit, Operand.fits, x.isLt])
    (by simp [Instr.line, Line.read])

theorem Canonical.storeRegs (x : RegId) : Canonical.Statement (.storeRegs x) :=
  canonical_of_read (by simp [Instr.wellFormed, Line.wellFormed, Instr.line, Op.operands, operandsFit, Operand.fits, x.isLt])
    (by simp [Instr.line, Line.read])

theorem Canonical.loadRegs (x : RegId) : Canonical.Statement (.loadRegs x) :=
  canonical_of_read (by simp [Instr.wellFormed, Line.wellFormed, Instr.line, Op.operands, operandsFit, Operand.fits, x.isLt])
    (by simp [Instr.line, Line.read])

end Sys2Proof.Laws
end

