-- ==== Sys2Proof/Laws/Step.lean ====
section
/-! SUPPORT. Said once: what a fetch, an Instruction Cycle, the timer trigger and a poll iteration can do. -/

namespace Sys2Proof.Machine

/-- The fatal stop as a next state (R206). -/
theorem State.raise_eq (s : State) (k : FatalKind) (info : Nat) :
    s.raise k info = .next (s.fatalStop { kind := k, pc0 := some s.pc, w := s.fetchWord, info := info }) := rfl

/-- The fatal stop is what the frame `StoppedBy` says. -/
theorem stoppedBy_fatalStop (s : State) (k : FatalKind) (info : Nat) :
    StoppedBy s (s.fatalStop { kind := k, pc0 := some s.pc, w := s.fetchWord, info := info }) k info := rfl

/-- One Instruction Cycle: a fatal fetch, a fatal word, or the decoded instruction (R80, R81, R92). -/
theorem instructionStep_cases (s : State) :
    (4094 < s.pc.toNat ∧ instructionStep s = s.raise .memoryOutOfRange (max s.pc.toNat 4096)) ∨
    (s.pc.toNat ≤ 4094 ∧ ∃ w, s.fetchWord = some w ∧ decodeWord w = none ∧
      instructionStep s = s.raise .unrecognizedOpcode w.toNat) ∨
    (s.pc.toNat ≤ 4094 ∧ ∃ w i, s.fetchWord = some w ∧ decodeWord w = some i ∧ instructionStep s = exec i s) := by
  by_cases h : s.pc.toNat ≤ 4094
  · have hw := State.fetchWord_eq_some h
    cases hd : decodeWord (s.mem.byte s.pc.toNat ++ s.mem.byte (s.pc.toNat + 1)) with
    | none => exact .inr (.inl ⟨h, _, hw, hd, by simp only [instructionStep, hw, hd]⟩)
    | some i => exact .inr (.inr ⟨h, _, i, hw, hd, by simp only [instructionStep, hw, hd]⟩)
  · have hw := State.fetchWord_eq_none (show 4094 < s.pc.toNat by omega)
    exact .inl ⟨by omega, by simp only [instructionStep, hw]⟩

/-- The timer trigger: nothing, or the timestamp and a tick (R212, R214). -/
theorem State.timerStage_cases (now : Int) (s : State) :
    (fires now s.lastTimer s.params.timerPeriod = true ∧ s.timerStage now = (s.markTimer now).timerTick) ∨
    (fires now s.lastTimer s.params.timerPeriod = false ∧ s.timerStage now = s) := by
  unfold State.timerStage
  split
  · exact .inl ⟨‹_›, rfl⟩
  · exact .inr ⟨Bool.eq_false_iff.mpr ‹_›, rfl⟩

/-- The timer trigger writes its timestamp, the two timers and the two output ports, and nothing else. -/
theorem State.timerStage_frame (now : Int) (s : State) : s.timerStage now =
    { s with lastTimer := (s.timerStage now).lastTimer, st := (s.timerStage now).st, dt := (s.timerStage now).dt,
             shown := (s.timerStage now).shown, tone := (s.timerStage now).tone } := by
  rcases s.timerStage_cases now with ⟨_, h⟩ | ⟨_, h⟩
  · rw [h]; rfl
  · rw [h]

/-- The clock sample of the next poll iteration. -/
def State.now (s : State) : Int := clockRead s.params s.nextSample.wall

/-- The state in which the next Instruction Cycle starts, where its trigger fires. -/
def State.atTrigger (s : State) : State := s.dropSample.markInstr s.now

/-- What one step can do, guards included (R240). -/
theorem step_cases {s t : State} (h : step s = .next t) :
    (s.halted = true ∧ t = s) ∨
    (s.halted = false ∧ s.nextSample.terminate = true ∧ t = s.dropSample.hostTerminate) ∨
    (s.halted = false ∧ s.nextSample.terminate = false ∧ fires s.now s.lastInstr s.params.instrPeriod = true ∧
      ∃ u, instructionStep s.atTrigger = .next u ∧ t = if u.halted then u else u.timerStage s.now) ∨
    (s.halted = false ∧ s.nextSample.terminate = false ∧ fires s.now s.lastInstr s.params.instrPeriod = false ∧
      t = s.dropSample.timerStage s.now) := by
  simp only [step, pollPorts, pollIteration] at h
  split at h
  · rename_i hh
    exact .inl ⟨hh, by simpa using h.symm⟩
  · rename_i hh
    have hh' : s.halted = false := Bool.eq_false_iff.mpr hh
    rw [if_neg (by simp [hh'])] at h
    split at h
    · rename_i ht
      exact .inr (.inl ⟨hh', ht, by simpa using h.symm⟩)
    · rename_i ht
      have ht' : s.nextSample.terminate = false := Bool.eq_false_iff.mpr ht
      split at h
      · rename_i hf
        refine .inr (.inr (.inl ⟨hh', ht', hf, ?_⟩))
        cases hu : instructionStep (s.dropSample.markInstr (clockRead s.params s.nextSample.wall)) with
        | next u =>
          rw [hu] at h
          exact ⟨u, hu, by simpa [afterInstruction, State.now] using h.symm⟩
        | fault f => exact nomatch f
        | refused r => rw [hu] at h; simp [afterInstruction] at h
      · rename_i hf
        exact .inr (.inr (.inr ⟨hh', ht', Bool.eq_false_iff.mpr hf, by simpa [State.now] using h.symm⟩))

end Sys2Proof.Machine
end

