-- ==== Sys2Proof/Tests/Slice0.lean ====
section
/-! SUPPORT. Tests: ill-formed terms that are refused, one word per constructor written out from the encodings, one-step tests
whose expected results are the vectors of 95_test_vectors, and a witness for the hypotheses of every obligation. -/

namespace Sys2Proof.Tests

open Sys2Proof.Machine

/-! ## Helpers -/

/-- The state an outcome carries. -/
def result : Outcome → State
  | .next t => t
  | .fault f => nomatch f
  | .refused _ => State.reset

/-- The outcome is a next state. -/
def isNext : Outcome → Bool
  | .next _ => true
  | .fault _ => false
  | .refused _ => false

theorem next_result {o : Outcome} (h : isNext o = true) : o = .next (result o) := by
  cases o with
  | next t => rfl
  | fault f => exact nomatch f
  | refused r => simp [isNext] at h

/-- One step on the instruction word `w`, placed where `s` fetches. -/
def after (s : State) (w : Nat) : State := result (step (s.withFetchWord 16 w))

/-- `s` with registers set. -/
def State.regs (s : State) (l : List (RegId × Byte)) : State := l.foldl (fun s p => s.setReg p.1 p.2) s

/-- The reset state with registers set. -/
def regs (l : List (RegId × Byte)) : State := State.regs State.reset l

/-- A register as a number. -/
def val (s : State) (r : RegId) : Nat := (s.reg r).toNat

/-- `s` with `I` and the bytes there. -/
def State.atIndex (s : State) (a : Word) (bs : List Byte) : State :=
  { s with idx := a, mem := s.mem.putList a.toNat bs }

/-- The bytes at `a`, `a + 1`, ... as numbers. -/
def bytes (s : State) (a n : Nat) : List Nat := (List.range n).map fun k => (s.mem.byte (a + k)).toNat

/-- The frame with exactly the listed pixels on. -/
def frame (l : List (Nat × Nat)) : Frame := l.foldl (fun f p => Frame.flip f p.1 p.2) Frame.blank

/-- The reset state on which the host answers key polls so. -/
def State.answers (s : State) (l : List (Option HostSymbol)) : State := { s with inputs := { s.inputs with keys := l } }

/-- The state whose next samples of the terminate and clock ports are these. -/
def State.samples (s : State) (l : List (Bool × Int)) : State :=
  { s with inputs := { s.inputs with samples := l.map fun p => { terminate := p.1, wall := p.2 } } }

/-- The fault record of a fatal stop. -/
def record (k : FatalKind) (pc0 : Word) (w : Option Word) (info : Nat) : Option FatalRecord :=
  some { kind := k, pc0 := some pc0, w := w, info := info }

/-! ## Ill-formed lines are refused (R96) -/

theorem test_refuses_register_16 : Line.wellFormed { op := .move, operands := [.reg 16, .reg 0] } = false := by decide

theorem test_refuses_byte_256 : Line.wellFormed { op := .loadImm, operands := [.reg 0, .imm 256] } = false := by decide

theorem test_refuses_address_4096 : Line.wellFormed { op := .jump, operands := [.imm 4096] } = false := by decide

theorem test_refuses_nibble_16 : Line.wellFormed { op := .draw, operands := [.reg 0, .reg 1, .imm 16] } = false := by decide

theorem test_refuses_register_for_number : Line.wellFormed { op := .setIndex, operands := [.reg 1] } = false := by decide

theorem test_refuses_number_for_register : Line.wellFormed { op := .move, operands := [.reg 1, .imm 2] } = false := by decide

theorem test_refuses_register_for_byte : Line.wellFormed { op := .addImm, operands := [.reg 1, .reg 2] } = false := by decide

theorem test_refuses_register_for_nibble : Line.wellFormed { op := .draw, operands := [.reg 0, .reg 1, .reg 2] } = false := by decide

theorem test_refuses_missing_operand : Line.wellFormed { op := .add, operands := [.reg 1] } = false := by decide

theorem test_refuses_extra_operand : Line.wellFormed { op := .clearScreen, operands := [.reg 1] } = false := by decide

theorem test_accepts_largest_operands : Line.wellFormed { op := .draw, operands := [.reg 15, .reg 15, .imm 15] } = true := by decide


/-! ## Decoding, one word per constructor, written bit by bit from the rows of R90 -/

theorem test_decode_clearScreen : decodeWord 0b0000_0000_1110_0000 = some .clearScreen := by decide

theorem test_decode_ret : decodeWord 0b0000_0000_1110_1110 = some .ret := by decide

theorem test_decode_jump : decodeWord 0b0001_1010_1011_1100 = some (.jump 0xABC) := by decide

theorem test_decode_call : decodeWord 0b0010_1010_1011_1100 = some (.call 0xABC) := by decide

theorem test_decode_skipEqImm : decodeWord 0b0011_0001_0100_0010 = some (.skipEqImm 1 0x42) := by decide

theorem test_decode_skipNeqImm : decodeWord 0b0100_0001_0100_0010 = some (.skipNeqImm 1 0x42) := by decide

theorem test_decode_skipEqReg : decodeWord 0b0101_0010_0100_0000 = some (.skipEqReg 2 4) := by decide

theorem test_decode_loadImm : decodeWord 0b0110_1010_1111_1111 = some (.loadImm 10 0xFF) := by decide

theorem test_decode_addImm : decodeWord 0b0111_0001_0000_0010 = some (.addImm 1 0x02) := by decide

theorem test_decode_move : decodeWord 0b1000_1110_1111_0000 = some (.move 14 15) := by decide

theorem test_decode_bitOr : decodeWord 0b1000_0001_0010_0001 = some (.bitOr 1 2) := by decide

theorem test_decode_bitAnd : decodeWord 0b1000_0001_0010_0010 = some (.bitAnd 1 2) := by decide

theorem test_decode_bitXor : decodeWord 0b1000_0001_0010_0011 = some (.bitXor 1 2) := by decide

theorem test_decode_add : decodeWord 0b1000_0001_0010_0100 = some (.add 1 2) := by decide

theorem test_decode_sub : decodeWord 0b1000_0001_0010_0101 = some (.sub 1 2) := by decide

theorem test_decode_shr : decodeWord 0b1000_1010_0000_0110 = some (.shr 10) := by decide

theorem test_decode_subn : decodeWord 0b1000_0001_0010_0111 = some (.subn 1 2) := by decide

theorem test_decode_shl : decodeWord 0b1000_1010_0000_1110 = some (.shl 10) := by decide

theorem test_decode_skipNeqReg : decodeWord 0b1001_0001_0010_0000 = some (.skipNeqReg 1 2) := by decide

theorem test_decode_setIndex : decodeWord 0b1010_0011_0000_0001 = some (.setIndex 0x301) := by decide

theorem test_decode_jumpOffset : decodeWord 0b1011_0011_0000_0001 = some (.jumpOffset 0x301) := by decide

theorem test_decode_random : decodeWord 0b1100_0001_0000_1111 = some (.random 1 0x0F) := by decide

theorem test_decode_draw : decodeWord 0b1101_0001_0010_0101 = some (.draw 1 2 5) := by decide

theorem test_decode_skipIfKey : decodeWord 0b1110_0100_1001_1110 = some (.skipIfKey 4) := by decide

theorem test_decode_skipIfNotKey : decodeWord 0b1110_0100_1010_0001 = some (.skipIfNotKey 4) := by decide

theorem test_decode_getDelay : decodeWord 0b1111_0010_0000_0111 = some (.getDelay 2) := by decide

theorem test_decode_waitKey : decodeWord 0b1111_0001_0000_1010 = some (.waitKey 1) := by decide

theorem test_decode_setDelay : decodeWord 0b1111_0011_0001_0101 = some (.setDelay 3) := by decide

theorem test_decode_setSound : decodeWord 0b1111_0011_0001_1000 = some (.setSound 3) := by decide

theorem test_decode_addIndex : decodeWord 0b1111_0010_0001_1110 = some (.addIndex 2) := by decide

theorem test_decode_fontAddress : decodeWord 0b1111_0110_0010_1001 = some (.fontAddress 6) := by decide

theorem test_decode_storeBcd : decodeWord 0b1111_0101_0011_0011 = some (.storeBcd 5) := by decide

theorem test_decode_storeRegs : decodeWord 0b1111_1100_0101_0101 = some (.storeRegs 12) := by decide

theorem test_decode_loadRegs : decodeWord 0b1111_1100_0110_0101 = some (.loadRegs 12) := by decide

/-- The bits that decode does not examine (R95), from part 2.1 of 95_test_vectors. -/
theorem test_decode_ignores :
    [0x01E0, 0x0FE0, 0x0FEE, 0x5247, 0x9121, 0x8AB6, 0x8ABE].map decodeWord =
    [some .clearScreen, some .clearScreen, some .ret, some (.skipEqReg 2 4), some (.skipNeqReg 1 2), some (.shr 10),
      some (.shl 10)] := by decide

/-- The unrecognised words of part 2.1. -/
theorem test_decode_refuses :
    ([0x0000, 0x0123, 0x00E1, 0x00FD, 0x8008, 0x8AB9, 0x812F, 0xE000, 0xE19D, 0xE1A2,
    0xF0FF, 0xF075, 0xF000, 0xF01F] : List Word).all (fun w => (decodeWord w).isNone) = true := by decide

theorem test_decode_needs_two_bytes : (decode [0x00]).toOption = none := by decide


/-! ## One step, against the vectors of 95_test_vectors (S: part 1, 2.n: part 2) -/

/-! ### Control transfer (2.2) -/

theorem test_jump :
    let t := after (State.reset) 0x1ABC
    t.pc = 0xABC := by decide

theorem test_jump_self :
    let t := after (State.reset) 0x1200
    t.pc = 0x200 := by decide

theorem test_call :
    let t := after (State.reset) 0x2ABC
    t.pc = 0xABC ∧ t.sp = 1 ∧ t.slot 1 = 0x202 ∧ t.slot 0 = 0 := by decide

theorem test_call_overflow :
    let t := after ({ State.reset with sp := 15 }) 0x2300
    t.fatal = record .stackOverflow 0x200 (some 0x2300) 16 ∧ t.sp = 15 ∧ t.pc = 0x200 ∧ t.halted = true := by decide

theorem test_ret :
    let t := after (State.push { State.reset with sp := 1 } 0xFFF) 0x00EE
    t.pc = 0xFFF ∧ t.sp = 1 := by decide

theorem test_ret_underflow :
    let t := after (State.reset) 0x0FEE
    t.fatal = record .stackUnderflow 0x200 (some 0x0FEE) 0 ∧ t.pc = 0x200 := by decide

theorem test_skipEqImm :
    let t := after (State.reset) 0x3100
    t.pc = 0x204 := by decide

theorem test_skipEqImm_no :
    let t := after (regs [(1, 4)]) 0x3100
    t.pc = 0x202 := by decide

theorem test_skipNeqImm :
    let t := after (regs [(1, 4)]) 0x4100
    t.pc = 0x204 := by decide

theorem test_skipNeqImm_no :
    let t := after (State.reset) 0x4100
    t.pc = 0x202 := by decide

theorem test_skipEqReg :
    let t := after (regs [(2, 7), (4, 7)]) 0x5240
    t.pc = 0x204 := by decide

theorem test_skipEqReg_no :
    let t := after (regs [(2, 7), (4, 8)]) 0x5240
    t.pc = 0x202 := by decide

theorem test_skipNeqReg :
    let t := after (regs [(15, 1)]) 0x9EF0
    t.pc = 0x204 := by decide

theorem test_skipNeqReg_same :
    let t := after (State.reset) 0x9330
    t.pc = 0x202 := by decide

theorem test_jumpOffset :
    let t := after (regs [(0, 0xFF)]) 0xBFFF
    t.pc = 0x10FE := by decide

theorem test_jumpOffset_v0 :
    let t := after (regs [(0, 1), (2, 0x80)]) 0xB200
    t.pc = 0x201 := by decide

/-! ### Registers and ALU (S1 to S4, 2.3) -/

theorem test_loadImm :
    let t := after (State.reset) 0x6AFF
    val t 10 = 0xFF ∧ t.pc = 0x202 := by decide

theorem test_addImm :
    let t := after (regs [(1, 0xFF)]) 0x7102
    val t 1 = 1 ∧ val t 15 = 0 := by decide

theorem test_move :
    let t := after (regs [(15, 1)]) 0x8EF0
    val t 14 = 1 := by decide

theorem test_bitOr :
    let t := after (regs [(1, 0x0F), (2, 0xF0), (15, 1)]) 0x8121
    val t 1 = 0xFF ∧ val t 15 = 0 := by decide

theorem test_bitOr_flag :
    let t := after (regs [(15, 1), (10, 6)]) 0x8FA1
    val t 15 = 0 ∧ val t 10 = 6 := by decide

theorem test_bitAnd :
    let t := after (regs [(1, 0x3C), (2, 0x0F)]) 0x8122
    val t 1 = 0x0C ∧ val t 15 = 0 := by decide

theorem test_bitXor :
    let t := after (regs [(1, 0xFF), (2, 0x0F)]) 0x8123
    val t 1 = 0xF0 ∧ val t 15 = 0 := by decide

theorem test_bitXor_flag :
    let t := after (regs [(15, 1), (10, 6)]) 0x8AF3
    val t 10 = 7 ∧ val t 15 = 0 := by decide

theorem test_add :
    let t := after (regs [(0, 0xF0), (1, 0x20)]) 0x8014
    val t 0 = 0x10 ∧ val t 15 = 1 := by decide

theorem test_add_flag :
    let t := after (regs [(15, 0xF0), (10, 0x20)]) 0x8FA4
    val t 15 = 1 := by decide

theorem test_sub :
    let t := after (regs [(0, 3), (1, 5)]) 0x8015
    val t 0 = 0xFE ∧ val t 15 = 0 := by decide

theorem test_sub_flag :
    let t := after (regs [(15, 7), (10, 3)]) 0x8FA5
    val t 15 = 0xFE := by decide

theorem test_subn :
    let t := after (regs [(0, 4), (1, 4)]) 0x8017
    val t 0 = 0 ∧ val t 15 = 1 := by decide

theorem test_subn_flag :
    let t := after (regs [(15, 4), (10, 9)]) 0x8AF7
    val t 10 = 0xF7 ∧ val t 15 = 0 := by decide

theorem test_shr :
    let t := after (regs [(10, 5), (11, 0xFF)]) 0x8AB6
    val t 10 = 2 ∧ val t 11 = 0xFF ∧ val t 15 = 1 := by decide

theorem test_shr_flag :
    let t := after (regs [(15, 3)]) 0x8F06
    val t 15 = 0 := by decide

theorem test_shl :
    let t := after (regs [(3, 0x81)]) 0x830E
    val t 3 = 2 ∧ val t 15 = 1 := by decide

theorem test_shl_flag :
    let t := after (regs [(15, 0x81)]) 0x8F0E
    val t 15 = 2 := by decide

theorem test_random :
    let t := after ({ State.reset with inputs := { Inputs.none with randoms := [0xA7, 3] } }) 0xC10F
    val t 1 = 7 ∧ t.inputs.randoms = [3] := by decide

/-! ### Index and memory (S9, S10, 2.4) -/

theorem test_setIndex :
    let t := after (State.reset) 0xAFFF
    t.idx = 0xFFF := by decide

theorem test_addIndex :
    let t := after (State.regs { State.reset with idx := 0xFFFF } [(2, 2)]) 0xF21E
    t.idx = 1 ∧ val t 15 = 0 := by decide

theorem test_fontAddress :
    let t := after (regs [(0, 0x1A)]) 0xF029
    t.idx = 0x32 := by decide

theorem test_storeBcd :
    let t := after (State.regs { State.reset with idx := 0xFFD } [(0, 0xFF)]) 0xF033
    bytes t 0xFFD 3 = [2, 5, 5] ∧ t.idx = 0xFFD ∧ t.mem.wf = true := by decide

theorem test_storeBcd_fatal :
    let t := after (State.regs { State.reset with idx := 0xFFE } [(0, 0xFF)]) 0xF033
    t.fatal = record .memoryOutOfRange 0x200 (some 0xF033) 4096 ∧ bytes t 0xFFE 2 = [0, 0] := by decide

theorem test_storeRegs :
    let t := after (State.regs { State.reset with idx := 0xFFC } [(0, 1), (1, 2), (2, 3), (3, 4)]) 0xF355
    bytes t 0xFFC 4 = [1, 2, 3, 4] ∧ t.idx = 0xFFC := by decide

theorem test_storeRegs_fatal :
    let t := after (State.regs { State.reset with idx := 0xFFD } [(0, 1), (1, 2), (2, 3), (3, 4)]) 0xF355
    t.fatal = record .memoryOutOfRange 0x200 (some 0xF355) 4096 ∧ bytes t 0xFFD 3 = [0, 0, 0] := by decide

theorem test_loadRegs_font :
    let t := after (State.reset) 0xF465
    [val t 0, val t 1, val t 2, val t 3, val t 4, val t 5] = [0xF0, 0x90, 0x90, 0x90, 0xF0, 0] := by decide

theorem test_loadRegs_fatal :
    let t := after (State.regs { State.reset with idx := 0xFFFF } [(0, 9)]) 0xF065
    t.fatal = record .memoryOutOfRange 0x200 (some 0xF065) 0xFFFF ∧ val t 0 = 9 := by decide

/-! ### Display (S11, 2.5) -/

theorem test_clearScreen :
    let t := after (regs [(15, 1)] |> fun s => { s with fb := frame [(3, 3)] }) 0x00E0
    t.fb = frame [] ∧ val t 15 = 1 := by decide

theorem test_draw_clips :
    let t := after (State.atIndex (regs [(1, 124), (2, 32)]) 0x300 [0xFF]) 0xD121
    t.fb = frame [(60, 0), (61, 0), (62, 0), (63, 0)] ∧ val t 15 = 0 := by decide

theorem test_draw_collides :
    let t := after (State.atIndex { State.reset with fb := frame [(1, 0), (5, 5)] } 0x300 [0xC0]) 0xD121
    t.fb = frame [(0, 0), (5, 5)] ∧ val t 15 = 1 := by decide

/-! ### Keypad and timers (2.6, 2.7) -/

theorem test_skipIfKey :
    let t := after (State.answers (regs [(0, 7)]) [some 7]) 0xE09E
    t.pc = 0x204 ∧ t.lastKey = some 7 ∧ t.pollsSinceSeen = 0 ∧ t.inputs.keys = [] := by decide

theorem test_skipIfKey_byte :
    let t := after (State.answers (regs [(0, 0x17)]) [some 7]) 0xE09E
    t.pc = 0x202 := by decide

theorem test_skipIfNotKey :
    let t := after (State.answers (regs [(0, 7)]) [none]) 0xE0A1
    t.pc = 0x204 := by decide

theorem test_skipIfNotKey_no :
    let t := after (State.answers (regs [(0, 7)]) [some 7]) 0xE0A1
    t.pc = 0x202 ∧ t.lastKey = some 7 := by decide

theorem test_waitKey :
    let t := after (State.answers { State.reset with lastKey := some 7 } [some 0xB]) 0xF10A
    val t 1 = 0xB ∧ t.pc = 0x202 ∧ t.lastKey = some 7 := by decide

theorem test_waitKey_waits :
    let t := after (State.answers { State.reset with lastKey := some 7 } [some 99]) 0xF10A
    t.pc = 0x200 ∧ val t 1 = 0 ∧ t.lastKey = some 7 ∧ t.pollsSinceSeen = 0 := by decide

theorem test_getDelay :
    let t := after ({ State.reset with dt := 3 }) 0xF207
    val t 2 = 3 := by decide

theorem test_setDelay :
    let t := after (regs [(0, 5)]) 0xF015
    t.dt = 5 := by decide

theorem test_setSound :
    let t := after (regs [(3, 2)]) 0xF318
    t.st = 2 := by decide

/-! ### Fetch, the triggers, the main loop and reset (2.1, 2.7 to 2.9) -/

theorem test_fetch_above : (result (instructionStep { State.reset with pc := 0x10FE })).fatal =
    record .memoryOutOfRange 0x10FE none 0x10FE := by decide

theorem test_fetch_4095 : (result (instructionStep { State.reset with pc := 0xFFF })).fatal =
    record .memoryOutOfRange 0xFFF none 4096 := by decide

theorem test_fetch_odd :
    let t := after { State.reset with pc := 0x203 } 0x612A
    val t 1 = 0x2A ∧ t.pc = 0x205 := by decide

theorem test_unrecognized :
    let t := after State.reset 0xF0FF
    t.fatal = record .unrecognizedOpcode 0x200 (some 0xF0FF) 0xF0FF ∧ t.exitCode ≠ some 0 ∧ t.pc = 0x200 := by decide

theorem test_fires : fires 977 0 977 = false ∧ fires 978 0 977 = true ∧ fires 16667 0 16667 = false ∧
    fires 16668 0 16667 = true ∧ fires 100 900000 977 = true := by decide

theorem test_timer_tick :
    let t := State.timerTick { State.reset with dt := 5, st := 1 }
    t.dt = 4 ∧ t.st = 0 ∧ t.tone = true ∧ t.shown = some Frame.blank ∧ t.timerTick.tone = false := by decide

theorem test_decay :
    let s := State.answers { State.reset with params := { Params.default with keyDecayPolls := 3 } } [some 7, none, none, none]
    (State.keyDecayRead^[3] s).lastKey = some 7 ∧ (State.keyDecayRead^[4] s).lastKey = none ∧
      (State.keyDecayRead^[4] s).pollsSinceSeen = 0 := by decide

theorem test_terminate :
    let t := result (step (State.samples State.reset [(true, 5000)]))
    t.halted = true ∧ t.exitCode = some 0 ∧ t.fatal = none ∧ t.pc = 0x200 := by decide

theorem test_fatal_step_has_no_tick :
    let t := result (step (State.samples State.reset [(false, 50000)]))
    t.fatal = record .unrecognizedOpcode 0x200 (some 0) 0 ∧ t.shown = none ∧ t.lastTimer = 0 := by decide

theorem test_rollover :
    let s := { State.reset with lastInstr := 999999, lastTimer := 990000, mem := Memory.putList [] 0x200 [0x12, 0x00] }
    let t := result (step (State.samples s [(false, 100)]))
    t.lastInstr = 100 ∧ t.lastTimer = 100 ∧ t.shown = some Frame.blank := by decide

theorem test_boot :
    let t := boot { Config.standard with image := [0xAA, 0xBB, 0xCC] }
    bytes t 0x1FF 5 = [0, 0xAA, 0xBB, 0xCC, 0] ∧ bytes t 0 5 = [0xF0, 0x90, 0x90, 0x90, 0xF0] ∧ t.halted = false := by decide

theorem test_boot_too_large :
    (boot { Config.standard with image := List.replicate 3585 1 }).fatal =
      some { kind := .imageTooLarge, pc0 := none, w := none, info := 3585 } := by
  have h : ¬ 0x200 + (List.replicate 3585 (1 : Byte)).length ≤ 4096 := by rw [List.length_replicate]; decide
  rw [boot, if_neg h, State.fatalStop, List.length_replicate]

/-! ## Witnesses: the hypotheses of the obligations can be met, each clause at a boundary -/

/-- The free value does not matter where samples are laid out: a step that answers, as a relation. -/
theorem stepsTo_result {s : State} (h : isNext (step s) = true) : StepsTo s (result (step s)) := next_result h

/-- A state about to run `w`. -/
def placed (w : Nat) : State := State.reset.withFetchWord 16 w

theorem test_witness_DecodeSelectsTheMatchingRow :
    0x00E0 &&& Op.clearScreen.mask = Op.clearScreen.pattern ∧ 0xFFFF &&& Op.loadRegs.mask ≠ Op.loadRegs.pattern :=
  by decide

theorem test_witness_AssemblerRefusesWhatDoesNotFit :
    assemble { op := .draw, operands := [.reg 15, .reg 0, .imm 15] } = some 0xDF0F ∧
      Line.wellFormed { op := .jump, operands := [.imm 4096] } = false :=
  by decide

theorem test_witness_ReturnPopsTheStack :
    ({ State.reset with sp := 1 } : State).sp.toNat ≠ 0 ∧ ({ State.reset with sp := 15 } : State).sp.toNat ≠ 0 ∧
      State.reset.sp.toNat = 0 :=
  by decide

theorem test_witness_SelfJumpChangesNothing :
    (0x200 : Addr).toNat = State.reset.pc.toNat :=
  by decide

theorem test_witness_CallPushesTheReturnAddress :
    State.reset.sp.toNat ≠ 15 ∧ ({ State.reset with sp := 14 } : State).sp.toNat ≠ 15 ∧
      ({ State.reset with sp := 15 } : State).sp.toNat = 15 :=
  by decide

theorem test_witness_CallThenReturnComesBack :
    ({ State.reset with sp := 14 } : State).sp.toNat ≠ 15 :=
  by decide

theorem test_witness_SkipsMoveOnlyPc :
    ((regs [(1, 255)]).reg 1).toNat = (255 : Byte).toNat ∧ ((regs [(1, 255)]).reg 1).toNat ≠ (254 : Byte).toNat :=
  by decide

theorem test_witness_BitwiseClearsTheFlag :
    (14 : RegId) ≠ 15 ∧ (0 : RegId) ≠ 15 ∧ (15 : RegId) = 15 :=
  by decide

theorem test_witness_ShiftsReportTheLostBit :
    (14 : RegId) ≠ 15 ∧ (0 : RegId) ≠ 15 ∧ (15 : RegId) = 15 :=
  by decide

theorem test_witness_FlagAsDestinationTable :
    (15 : RegId) = 15 ∧ (14 : RegId) ≠ 15 ∧ (0x7F : Byte).toNat ≤ 0x7F ∧ ¬ (0x80 : Byte).toNat ≤ 0x7F :=
  by decide

theorem test_witness_FlagAsSecondOperandTable :
    (14 : RegId) ≠ 15 ∧ (0 : RegId) ≠ 15 :=
  by decide

theorem test_witness_AddReportsCarry :
    255 < ((regs [(0, 255), (1, 1)]).reg 0).toNat + ((regs [(0, 255), (1, 1)]).reg 1).toNat ∧
      ¬ 255 < ((regs [(0, 254), (1, 1)]).reg 0).toNat + ((regs [(0, 254), (1, 1)]).reg 1).toNat :=
  by decide

theorem test_witness_SubtractionsReportNoBorrow :
    ((regs [(0, 5), (1, 5)]).reg 1).toNat ≤ ((regs [(0, 5), (1, 5)]).reg 0).toNat ∧
      ¬ ((regs [(0, 4), (1, 5)]).reg 1).toNat ≤ ((regs [(0, 4), (1, 5)]).reg 0).toNat :=
  by decide

theorem test_witness_OnlyNamedRegistersChange :
    ∃ t, exec (.loadImm 3 7) State.reset = .next t ∧ t.reg 3 ≠ State.reset.reg 3 :=
  ⟨_, rfl, by decide⟩

theorem test_witness_StoreBcdWritesThreeDigits :
    State.reset.mem.wf = true ∧ InRange { State.reset with idx := 0xFFD } 3 ∧
      ¬ InRange { State.reset with idx := 0xFFE } 3 :=
  by unfold InRange; decide

theorem test_witness_StoreRegsCopiesOut :
    State.reset.mem.wf = true ∧ InRange { State.reset with idx := 0xFF0 } ((15 : RegId).toNat + 1) ∧
      ¬ InRange { State.reset with idx := 0xFF1 } ((15 : RegId).toNat + 1) ∧
      InRange { State.reset with idx := 0xFFF } ((0 : RegId).toNat + 1) ∧
      ¬ InRange { State.reset with idx := 0x1000 } ((0 : RegId).toNat + 1) :=
  by unfold InRange; decide

theorem test_witness_LoadRegsCopiesIn :
    State.reset.mem.wf = true ∧ InRange { State.reset with idx := 0xFF0 } ((15 : RegId).toNat + 1) ∧
      ¬ InRange { State.reset with idx := 0xFF1 } ((15 : RegId).toNat + 1) ∧
      InRange { State.reset with idx := 0xFFF } ((0 : RegId).toNat + 1) ∧
      ¬ InRange { State.reset with idx := 0x1000 } ((0 : RegId).toNat + 1) :=
  by unfold InRange; decide

theorem test_witness_StoreThenLoadRestores :
    State.reset.mem.wf = true ∧ InRange { State.reset with idx := 0xFF0 } ((15 : RegId).toNat + 1) ∧
      ∃ t u : State, exec (.storeRegs 15) { State.reset with idx := 0xFF0 } = .next t ∧ u.mem = t.mem ∧ u.idx = t.idx ∧
        u.reg 0 ≠ t.reg 0 :=
  ⟨rfl, by unfold InRange; decide, _, { State.reset with idx := 0xFF0, v := Vector.replicate 16 1 }, rfl, by decide,
    rfl, by decide⟩

theorem test_witness_StoredRegistersAreFetchedNext :
    let s : State := { State.reset with idx := 0xFFE, pc := 0xFFC }
    s.mem.wf = true ∧ InRange s ((1 : RegId).toNat + 1) ∧ 1 ≤ (1 : RegId).toNat ∧ s.idx = s.pc + 2 :=
  by unfold InRange; decide

/-- The last byte of memory as a sprite row: in range, one beyond, no row, a covered pixel that is on, an uncovered one. -/
theorem test_witness_DrawXorsTheVisibleSprite :
    let s : State := State.atIndex { State.reset with idx := 0xFFF, fb := frame [(1, 0)] } 0xFFF [0xC0]
    let s' : State := { s with idx := 0x1000 }
    InRange s (rowsOf s 0 1) ∧ ¬ InRange s' (rowsOf s' 0 1) ∧ InRange s' (rowsOf s' 0 0) ∧ DrawCovers s 0 0 1 1 0 ∧
      Frame.pixel s.fb 1 0 = true ∧ ¬ DrawCovers s 0 0 1 2 0 :=
  by
    refine ⟨by unfold InRange; decide, by unfold InRange; decide, .inl (by decide), ⟨0, 1, by decide⟩, by decide, ?_⟩
    rintro ⟨i, j, hi, hj, hx, hy, hb⟩
    have hi : i < 1 := Nat.lt_of_lt_of_le hi (Nat.min_le_left _ _)
    have hj : j = 2 := by
      have : originX (State.atIndex { State.reset with idx := 0xFFF, fb := frame [(1, 0)] } 0xFFF [0xC0]) 0 = 0 := by decide
      omega
    obtain rfl : i = 0 := by omega
    subst hj
    revert hb
    decide

theorem test_witness_DrawXorsTheVisibleSprite_no_collision :
    let s : State := State.reset
    InRange s (rowsOf s 0 15) ∧ ¬ ∃ px py, px < 64 ∧ DrawCovers s 0 0 15 px py ∧ Frame.pixel s.fb px py = true :=
  by
    refine ⟨by unfold InRange; decide, ?_⟩
    rintro ⟨px, py, _, _, h⟩
    have : Frame.pixel Frame.blank px py = false := by
      by_cases hy : py < 32 <;> simp [Frame.pixel, Frame.row, Frame.blank, hy]
    rw [show State.reset.fb = Frame.blank from rfl, this] at h
    simp at h

theorem test_witness_DrawTwiceRestoresTheFrame :
    let s : State := State.atIndex (regs [(1, 62), (2, 31)]) 0xFFF [0xFF]
    let t := result (exec (.draw 1 2 1) s)
    InRange s (rowsOf s 2 1) ∧ exec (.draw 1 2 1) s = .next t ∧ originX t 1 = originX s 1 ∧ originY t 2 = originY s 2 :=
  ⟨by unfold InRange; decide, next_result (by decide), by decide, by decide⟩

theorem test_witness_NoCollisionAfterClear :
    let s : State := State.atIndex { State.reset with fb := frame [(0, 0)] } 0xFFF [0x80]
    InRange s (rowsOf s 0 1) :=
  by unfold InRange; decide

theorem test_witness_DecayingReadFollowsItsProcedure :
    (State.answers State.reset [some 7]).nextKey = some 7 ∧ (State.answers State.reset [none]).nextKey = none ∧
      State.reset.pollsSinceSeen + 1 < State.reset.params.keyDecayPolls ∧
      ({ State.reset with pollsSinceSeen := 1022 } : State).pollsSinceSeen + 1 < Params.default.keyDecayPolls ∧
      Params.default.keyDecayPolls ≤ ({ State.reset with pollsSinceSeen := 1023 } : State).pollsSinceSeen + 1 :=
  by decide

theorem test_witness_KeyIsReportedUntilItDecays :
    let s := State.answers { State.reset with params := { Params.default with keyDecayPolls := 3 } } [some 7, none, none, none]
    1 ≤ s.params.keyDecayPolls ∧ s.inputs.keys = some 7 :: (List.replicate 2 none ++ [none]) ∧
      2 < s.params.keyDecayPolls ∧
      s.inputs.keys = some 7 :: (List.replicate 3 none ++ []) ∧ 3 = s.params.keyDecayPolls :=
  by decide

theorem test_witness_KeySkipsAreComplements :
    KeyHits (State.answers (regs [(0, 7)]) [some 7]) 0 ∧ ¬ KeyHits (State.answers (regs [(0, 0x17)]) [some 7]) 0 :=
  by
    refine ⟨⟨7, by decide, by decide⟩, ?_⟩
    rintro ⟨k, _, h⟩
    have : (State.reg (State.answers (regs [(0, 0x17)]) [some 7]) 0).toNat = 0x17 := by decide
    have := k.isLt
    omega

theorem test_witness_WaitKeyTakesAKeyOrStays :
    (State.answers State.reset [some 15]).nextKey = some 15 ∧ Params.default.keymap.lookup 15 = some 15 ∧
      (State.answers State.reset [none]).nextKey = none ∧ (State.answers State.reset [some 16]).nextKey = some 16 ∧
      Params.default.keymap.lookup 16 = none :=
  by decide

theorem test_witness_TimerTickCountsDown :
    State.reset.st.toNat = 0 ∧ ({ State.reset with st := 255 } : State).st.toNat ≠ 0 :=
  by decide

theorem test_witness_TicksNeverUnderflow :
    4 < ({ State.reset with st := 5 } : State).st.toNat ∧ ¬ 5 < ({ State.reset with st := 5 } : State).st.toNat :=
  by decide

theorem test_witness_FetchIsBigEndian :
    ({ State.reset with pc := 4094 } : State).pc.toNat ≤ 4094 :=
  by decide

theorem test_witness_FetchOutOfRangeIsFatal :
    4094 < ({ State.reset with pc := 4095 } : State).pc.toNat ∧ 4094 < ({ State.reset with pc := 4096 } : State).pc.toNat :=
  by decide

theorem test_witness_UnrecognizedWordIsFatal :
    State.reset.fetchWord = some 0 ∧ decodeWord 0 = none :=
  by decide

theorem test_witness_StepRunsTheDecodedInstruction :
    let s := placed 0x6AFF
    s.halted = false ∧ s.nextSample.terminate = false ∧
      Fires (clockRead s.params s.nextSample.wall) s.lastInstr s.params.instrPeriod ∧ s.pc.toNat ≤ 4094 ∧
      decode [s.mem.byte s.pc.toNat, s.mem.byte (s.pc.toNat + 1)] = .ok (.loadImm 10 0xFF, []) ∧
      (Instr.loadImm 10 0xFF).wellFormed = true ∧
      ∃ t, exec (.loadImm 10 0xFF) { s with inputs := s.inputs.dropSample, lastInstr := clockRead s.params s.nextSample.wall } =
        .next t ∧ t.halted = false :=
  ⟨by decide, by decide, by unfold Fires; decide, by decide, by rfl, by decide, _, next_result (by decide), by decide⟩

theorem test_witness_StepRunsTheDecodedInstruction_halts :
    let s := placed 0x00EE
    s.halted = false ∧ s.nextSample.terminate = false ∧
      Fires (clockRead s.params s.nextSample.wall) s.lastInstr s.params.instrPeriod ∧ s.pc.toNat ≤ 4094 ∧
      decode [s.mem.byte s.pc.toNat, s.mem.byte (s.pc.toNat + 1)] = .ok (.ret, []) ∧
      Instr.ret.wellFormed = true ∧
      ∃ t, exec .ret { s with inputs := s.inputs.dropSample, lastInstr := clockRead s.params s.nextSample.wall } =
        .next t ∧ t.halted = true :=
  ⟨by decide, by decide, by unfold Fires; decide, by decide, by rfl, by decide, _, next_result (by decide), by decide⟩

theorem test_witness_PollIterationCases :
    Fires 978 State.reset.lastInstr State.reset.params.instrPeriod ∧
      ¬ Fires 977 State.reset.lastInstr State.reset.params.instrPeriod ∧
      Fires (-1) State.reset.lastInstr State.reset.params.instrPeriod ∧ State.reset.halted = false ∧
      State.reset.hostTerminate.halted = true ∧ (result (instructionStep State.reset)).halted = true ∧
      (result (instructionStep (State.markInstr (placed 0x6AFF) 978))).halted = false ∧
      Fires 16668 State.reset.lastTimer State.reset.params.timerPeriod ∧
      ¬ Fires 16667 State.reset.lastTimer State.reset.params.timerPeriod :=
  by unfold Fires; decide

theorem test_witness_HaltIsForEver :
    State.reset.hostTerminate.halted = true :=
  rfl

theorem test_witness_ExecStopsPreciselyOrRuns :
    ∃ t, exec .ret State.reset = .next t ∧ StoppedBy State.reset t .stackUnderflow 0 ∧ mayRaise Instr.ret.op .stackUnderflow :=
  ⟨_, rfl, rfl, .inr (.inl ⟨rfl, rfl⟩)⟩

theorem test_witness_FatalStepIsPrecise :
    let s := State.samples State.reset [(false, 978)]
    StepsTo s (result (step s)) ∧ s.halted = false ∧ s.fatal = none ∧ (result (step s)).fatal ≠ none :=
  ⟨stepsTo_result (by decide), by decide, by decide, by decide⟩

theorem test_witness_OnlyTheListedWriters :
    (∃ t, exec (.setIndex 5) State.reset = .next t ∧ t.idx ≠ State.reset.idx) ∧
      (∃ t, exec (.call 5) State.reset = .next t ∧ t.sp ≠ State.reset.sp ∧ t.stack ≠ State.reset.stack) ∧
      (∃ t, exec (.setDelay 0) (regs [(0, 1)]) = .next t ∧ t.dt ≠ State.reset.dt) ∧
      (∃ t, exec (.setSound 0) (regs [(0, 1)]) = .next t ∧ t.st ≠ State.reset.st) ∧
      (∃ t, exec .clearScreen { State.reset with fb := frame [(0, 0)] } = .next t ∧ t.fb ≠ frame [(0, 0)]) ∧
      (∃ t, exec (.storeRegs 0) State.reset = .next t ∧ t.mem.byte 0 ≠ State.reset.mem.byte 0) ∧
      ∃ t, exec (.skipIfKey 0) (State.answers State.reset [some 7]) = .next t ∧ t.lastKey ≠ State.reset.lastKey :=
  ⟨⟨_, rfl, by decide⟩, ⟨_, rfl, by decide, by decide⟩, ⟨_, rfl, by decide⟩, ⟨_, rfl, by decide⟩, ⟨_, rfl, by decide⟩,
    ⟨_, rfl, by decide⟩, ⟨_, rfl, by decide⟩⟩

theorem test_witness_StepKeepsParameters :
    StepsTo (placed 0x6AFF) (result (step (placed 0x6AFF))) :=
  stepsTo_result (by decide)

theorem test_witness_SlotZeroIsNeverWritten :
    StepsTo (placed 0x2ABC) (result (step (placed 0x2ABC))) ∧ (result (step (placed 0x2ABC))).slot 1 ≠ (placed 0x2ABC).slot 1 :=
  ⟨stepsTo_result (by decide), by decide⟩

theorem test_witness_StepKeepsMemoryCanonical :
    let s := placed 0xF055
    StepsTo s (result (step s)) ∧ s.mem.wf = true ∧ (result (step s)).mem ≠ s.mem :=
  ⟨stepsTo_result (by decide), by decide, by decide⟩

theorem test_witness_StepKeepsAddressesBounded :
    let s := placed 0xBFFF
    StepsTo s (result (step s)) ∧ s.AddressesBounded :=
  ⟨stepsTo_result (by decide), by decide, by decide⟩

theorem test_witness_StepKeepsStatusCoherent :
    let s := State.samples State.reset [(true, 0)]
    let s' := State.samples State.reset [(false, 978)]
    StepsTo s (result (step s)) ∧ s.StatusCoherent ∧ (result (step s)).exitCode = some 0 ∧
      StepsTo s' (result (step s')) ∧ s'.StatusCoherent ∧ (result (step s')).fatal ≠ none ∧
      (result (step s)).StatusCoherent ∧ (result (step s')).StatusCoherent :=
  ⟨stepsTo_result (by decide), .inl (by decide), by decide, stepsTo_result (by decide), .inl (by decide), by decide,
    .inr (.inl (by decide)), .inr (.inr ⟨by decide, _, rfl, by decide⟩)⟩

theorem test_witness_StepKeepsAddressesBounded_edge :
    let s := State.samples { State.reset with pc := 0x10FE } [(false, 978)]
    StepsTo s (result (step s)) ∧ s.AddressesBounded :=
  ⟨stepsTo_result (by decide), by decide, by decide⟩

theorem test_witness_StepKeepsPollsBounded :
    let s := State.answers { placed 0xE09E with pollsSinceSeen := 1023 } [none]
    StepsTo s (result (step s)) ∧ s.params.valid = true ∧ s.PollsBounded ∧ (result (step s)).pollsSinceSeen = 0 :=
  ⟨stepsTo_result (by decide), by decide, fun _ => by decide, by decide⟩

theorem test_witness_BootPlacesFontAndImage :
    0x200 + (List.replicate 3584 (1 : Byte)).length ≤ 4096 ∧ 4096 < 0x200 + (List.replicate 3585 (1 : Byte)).length ∧
      Config.standard.params = Params.default ∧ Config.standard.font = fontTable ∧ Config.standard.image = [] :=
  ⟨by rw [List.length_replicate], by rw [List.length_replicate]; decide, rfl, rfl, rfl⟩

end Sys2Proof.Tests
end

section
/-! Control transfer (40_control_transfer R111, R114 to R117): the targets of jumps and skips, and the frame they share. -/

namespace Sys2Proof.Machine

/-! ### The meanings as updates of `pc` -/

theorem exec_jump (nnn : Addr) (s : State) : exec (.jump nnn) s = .next (s.jumpTo (zextAddr nnn)) := rfl

theorem exec_skipEqImm (x : RegId) (kk : Byte) (s : State) :
    exec (.skipEqImm x kk) s = .next (s.skipIf (s.reg x == kk)) := rfl

theorem exec_skipNeqImm (x : RegId) (kk : Byte) (s : State) :
    exec (.skipNeqImm x kk) s = .next (s.skipIf (s.reg x != kk)) := rfl

theorem exec_skipEqReg (x y : RegId) (s : State) :
    exec (.skipEqReg x y) s = .next (s.skipIf (s.reg x == s.reg y)) := rfl

theorem exec_skipNeqReg (x y : RegId) (s : State) :
    exec (.skipNeqReg x y) s = .next (s.skipIf (s.reg x != s.reg y)) := rfl

/-! ### The frame and the new `pc` -/

theorem onlyPc_jumpTo (s : State) (a : Word) : OnlyPc s (s.jumpTo a) where
  regs r := s.jumpTo_reg a r
  bytes i := by rw [State.jumpTo_mem]
  rest := rfl

theorem onlyPc_skipIf (s : State) (c : Bool) : OnlyPc s (s.skipIf c) where
  regs r := s.skipIf_reg c r
  bytes i := by rw [State.skipIf_mem]
  rest := rfl

/-- The 12 bits of an address fit the word, so the extension keeps its value (R85). -/
@[simp] theorem zextAddr_toNat (nnn : Addr) : (zextAddr nnn).toNat = nnn.toNat :=
  BitVec.toNat_setWidth_of_le (by decide)

theorem skipIf_beq_pc (s : State) (a b : Byte) :
    (s.skipIf (a == b)).pc = if a.toNat = b.toNat then s.pc + 4 else s.pc + 2 := by
  simp only [State.skipIf_pc, beq_iff_eq, BitVec.toNat_inj]

theorem skipIf_bne_pc (s : State) (a b : Byte) :
    (s.skipIf (a != b)).pc = if a.toNat = b.toNat then s.pc + 2 else s.pc + 4 := by
  simp only [State.skipIf_pc, bne_iff_ne, ne_eq, ite_not, BitVec.toNat_inj]

/-! ### The obligations -/

/-- Settles O8: `jump` is `jumpTo`, whose frame is `OnlyPc`, to the extended address. -/
theorem jumpAssignsPc : Obligations.JumpAssignsPc := fun s nnn =>
  ⟨_, exec_jump nnn s, zextAddr_toNat nnn, onlyPc_jumpTo s _⟩

/-- Settles O12: each skip is `skipIf`, whose frame is `OnlyPc`, on an equality or an inequality of two bytes. -/
theorem skipsMoveOnlyPc : Obligations.SkipsMoveOnlyPc := fun s x y kk =>
  ⟨⟨_, exec_skipEqImm x kk s, onlyPc_skipIf s _, skipIf_beq_pc s _ _⟩,
    ⟨_, exec_skipNeqImm x kk s, onlyPc_skipIf s _, skipIf_bne_pc s _ _⟩,
    ⟨_, exec_skipEqReg x y s, onlyPc_skipIf s _, skipIf_beq_pc s _ _⟩,
    ⟨_, exec_skipNeqReg x y s, onlyPc_skipIf s _, skipIf_bne_pc s _ _⟩⟩

end Sys2Proof.Machine
end

section
/-! Register and ALU operations (41_register_alu R130 to R136): writing one register, and writing the
result and then the flag. -/

namespace Sys2Proof.Machine

/-! ### The meanings as register writes -/

theorem exec_loadImm (x : RegId) (kk : Byte) (s : State) : exec (.loadImm x kk) s = .next (s.setReg x kk).advance := rfl

theorem exec_addImm (x : RegId) (kk : Byte) (s : State) :
    exec (.addImm x kk) s = .next (s.setReg x (s.reg x + kk)).advance := rfl

theorem exec_move (x y : RegId) (s : State) : exec (.move x y) s = .next (s.setReg x (s.reg y)).advance := rfl

theorem exec_bitOr (x y : RegId) (s : State) :
    exec (.bitOr x y) s = .next (s.resultThenFlag x (s.reg x ||| s.reg y) false).advance := rfl

theorem exec_bitAnd (x y : RegId) (s : State) :
    exec (.bitAnd x y) s = .next (s.resultThenFlag x (s.reg x &&& s.reg y) false).advance := rfl

theorem exec_bitXor (x y : RegId) (s : State) :
    exec (.bitXor x y) s = .next (s.resultThenFlag x (s.reg x ^^^ s.reg y) false).advance := rfl

theorem exec_add (x y : RegId) (s : State) :
    exec (.add x y) s = .next (s.resultThenFlag x (BitVec.ofNat 8 (exactSum (s.reg x) (s.reg y)))
      (carry (s.reg x) (s.reg y))).advance := rfl

/-! ### The frame of a register write -/

theorem OnlyRegs.refl (s : State) (d : List RegId) : OnlyRegs s s d where
  regs _ _ := rfl
  bytes _ := rfl
  rest := rfl

theorem OnlyRegs.setReg {s t : State} {d : List RegId} (h : OnlyRegs s t d) {r : RegId} (hr : r ∈ d) (b : Byte) :
    OnlyRegs s (t.setReg r b) d where
  regs q hq := by
    have hne : q ≠ r := fun e => hq (e ▸ hr)
    rw [State.reg_setReg_ne t hne, h.regs q hq]
  bytes a := by rw [State.setReg_mem, h.bytes a]
  rest := congrArg (State.setReg · r b) h.rest

theorem OnlyRegs.advance {s t : State} {d : List RegId} (h : OnlyRegs s t d) : OnlyRegs s t.advance d where
  regs q hq := by rw [State.advance_reg, h.regs q hq]
  bytes a := by rw [State.advance_mem, h.bytes a]
  rest := congrArg State.advance h.rest

theorem onlyRegs_setReg_advance (s : State) (x : RegId) (b : Byte) : OnlyRegs s (s.setReg x b).advance [x] :=
  ((OnlyRegs.refl s [x]).setReg (by simp) b).advance

theorem onlyRegs_resultThenFlag_advance (s : State) (x : RegId) (b : Byte) (f : Bool) :
    OnlyRegs s (s.resultThenFlag x b f).advance [x, 15] :=
  (((OnlyRegs.refl s [x, 15]).setReg (by simp) b).setReg (r := flagReg) (by simp [flagReg]) (flagByte f)).advance

/-! ### What the registers hold after -/

theorem setReg_advance_reg_self (s : State) (x : RegId) (b : Byte) : (s.setReg x b).advance.reg x = b := by
  rw [State.advance_reg, State.reg_setReg_self]

/-- The flag is written last, so it stays where the destination is register 15 too (R143). -/
theorem resultThenFlag_advance_flag (s : State) (x : RegId) (b : Byte) (f : Bool) :
    (s.resultThenFlag x b f).advance.reg 15 = flagByte f :=
  setReg_advance_reg_self (s.setReg x b) flagReg (flagByte f)

theorem resultThenFlag_advance_result (s : State) {x : RegId} (hx : x ≠ 15) (b : Byte) (f : Bool) :
    (s.resultThenFlag x b f).advance.reg x = b := by
  rw [State.advance_reg, State.resultThenFlag_eq, State.reg_setReg_ne _ (r := flagReg) hx, State.reg_setReg_self]

/-! ### The carry (R136) -/

theorem flagByte_toNat (f : Bool) : (flagByte f).toNat = if f then 1 else 0 := by
  cases f <;> rfl

theorem flagByte_carry_toNat (a b : Byte) :
    (flagByte (carry a b)).toNat = if 255 < a.toNat + b.toNat then 1 else 0 :=
  (flagByte_toNat _).trans (if_congr decide_eq_true_iff rfl rfl)

/-! ### The obligations -/

/-- Settles O14: each of the three is one `setReg`, whose frame is `OnlyRegs`, on bytes read before the write. -/
theorem loadAddMoveWriteOneRegister : Obligations.LoadAddMoveWriteOneRegister := fun s x y kk =>
  ⟨⟨_, exec_loadImm x kk s, setReg_advance_reg_self s x _, rfl, onlyRegs_setReg_advance s x _⟩,
    ⟨_, exec_addImm x kk s, by rw [setReg_advance_reg_self, BitVec.toNat_add], rfl, onlyRegs_setReg_advance s x _⟩,
    ⟨_, exec_move x y s, setReg_advance_reg_self s x _, rfl, onlyRegs_setReg_advance s x _⟩⟩

/-- Settles O15: each of the three is `resultThenFlag` with the flag clear, and the library says the result bit by bit. -/
theorem bitwiseClearsTheFlag : Obligations.BitwiseClearsTheFlag := fun s x y =>
  ⟨⟨_, exec_bitOr x y s, fun hx _ => by rw [resultThenFlag_advance_result s hx, BitVec.getLsbD_or],
      resultThenFlag_advance_flag s x _ _, rfl, onlyRegs_resultThenFlag_advance s x _ _⟩,
    ⟨_, exec_bitAnd x y s, fun hx _ => by rw [resultThenFlag_advance_result s hx, BitVec.getLsbD_and],
      resultThenFlag_advance_flag s x _ _, rfl, onlyRegs_resultThenFlag_advance s x _ _⟩,
    ⟨_, exec_bitXor x y s, fun hx _ => by rw [resultThenFlag_advance_result s hx, BitVec.getLsbD_xor],
      resultThenFlag_advance_flag s x _ _, rfl, onlyRegs_resultThenFlag_advance s x _ _⟩⟩

/-- Settles O16: `resultThenFlag` of the exact sum's low 8 bits and its carry, both computed from the registers before. -/
theorem addReportsCarry : Obligations.AddReportsCarry := fun s x y =>
  ⟨_, exec_add x y s, fun hx => by rw [resultThenFlag_advance_result s hx, BitVec.toNat_ofNat, exactSum],
    by rw [resultThenFlag_advance_flag, flagByte_carry_toNat], rfl, onlyRegs_resultThenFlag_advance s x _ _⟩

end Sys2Proof.Machine
end

section
/-! The index register (42_index_memory R150, R152): the addresses written to `I`, and the frame of that write. -/

namespace Sys2Proof.Machine

/-! ### The meanings as writes of `I` -/

theorem exec_setIndex (nnn : Addr) (s : State) :
    exec (.setIndex nnn) s = .next { s with idx := zextAddr nnn }.advance := rfl

theorem exec_fontAddress (x : RegId) (s : State) :
    exec (.fontAddress x) s = .next { s with idx := glyphAddress (s.reg x) }.advance := rfl

/-! ### The frame of a write of `I`, and the address of a glyph -/

theorem sameRegsAndBytes_setIdx_advance (s : State) (a : Word) : SameRegsAndBytes s { s with idx := a }.advance :=
  ⟨fun r => State.advance_reg { s with idx := a } r, fun i => by rw [State.advance_mem]⟩

/-- The last glyph starts at 75, so the address fits the word and does not wrap (R152). -/
@[simp] theorem glyphAddress_toNat (b : Byte) : (glyphAddress b).toNat = 5 * (b.toNat % 16) :=
  Nat.mod_eq_of_lt (by omega)

/-! ### The obligation -/

/-- Settles O23: both write `I` and advance; neither the extension of `nnn` nor the glyph's address loses bits. -/
theorem indexIsSet : Obligations.IndexIsSet := fun s x nnn =>
  ⟨⟨_, exec_setIndex nnn s, zextAddr_toNat nnn, rfl, sameRegsAndBytes_setIdx_advance s _, rfl⟩,
    ⟨_, exec_fontAddress x s, glyphAddress_toNat (s.reg x), rfl, sameRegsAndBytes_setIdx_advance s _, rfl⟩⟩

end Sys2Proof.Machine
end

section
/-! The framebuffer (43_display R170): the blank frame that clear-screen writes, and the frame of that write. -/

namespace Sys2Proof.Machine

/-! ### The meaning as a write of the framebuffer -/

theorem exec_clearScreen (s : State) : exec .clearScreen s = .next { s with fb := Frame.blank }.advance := rfl

/-! ### The frame of a write of the framebuffer -/

theorem sameRegsAndBytes_setFb_advance (s : State) (f : Frame) : SameRegsAndBytes s { s with fb := f }.advance :=
  ⟨fun r => State.advance_reg { s with fb := f } r, fun a => by rw [State.advance_mem]⟩

/-! ### The obligation -/

/-- Settles O30: the one write is of the blank frame, whose every pixel is 0, and it leaves every other field but `pc`. -/
theorem clearScreenClearsEveryPixel : Obligations.ClearScreenClearsEveryPixel := fun s =>
  ⟨_, exec_clearScreen s, fun x y _ _ => Frame.pixel_blank x y, rfl, sameRegsAndBytes_setFb_advance s _, rfl⟩

end Sys2Proof.Machine
end

section
/-! The timers (44_keypad_timers R182, R184, R185): reading `DT` into a register, and the frame of a write of `DT` or `ST`. -/

namespace Sys2Proof.Machine

/-! ### The meanings as a register write and as writes of a timer -/

theorem exec_getDelay (x : RegId) (s : State) : exec (.getDelay x) s = .next (s.setReg x s.dt).advance := rfl

theorem exec_setDelay (x : RegId) (s : State) :
    exec (.setDelay x) s = .next { s with dt := s.reg x }.advance := rfl

theorem exec_setSound (x : RegId) (s : State) :
    exec (.setSound x) s = .next { s with st := s.reg x }.advance := rfl

/-! ### The frame of a write of the timers -/

/-- Both timers at once: a write of one of them is the case where the other is given the value it has. -/
theorem sameRegsAndBytes_setTimers_advance (s : State) (d e : Byte) :
    SameRegsAndBytes s { s with dt := d, st := e }.advance :=
  ⟨fun r => State.advance_reg { s with dt := d, st := e } r, fun a => by rw [State.advance_mem]⟩

/-! ### The obligation -/

/-- Settles O38: get-delay is one `setReg`, whose frame is `OnlyRegs`; the other two write one timer and advance. -/
theorem timerMoves : Obligations.TimerMoves := fun s x =>
  ⟨⟨_, exec_getDelay x s, setReg_advance_reg_self s x _, rfl, onlyRegs_setReg_advance s x _⟩,
    ⟨_, exec_setDelay x s, rfl, rfl, sameRegsAndBytes_setTimers_advance s (s.reg x) s.st, rfl⟩,
    ⟨_, exec_setSound x s, rfl, rfl, sameRegsAndBytes_setTimers_advance s s.dt (s.reg x), rfl⟩⟩

end Sys2Proof.Machine
end

section
/-! Decoding and encoding (30_encoding R83 to R96): a word as its four nibbles, decode after encode, the bits that decode does not
examine, and the lines an assembler accepts. -/

namespace Sys2Proof

/-! ### Decode after encode -/

/-- The selecting fields of a canonical word are the row's numbers, and its operand fields read back as given. -/
theorem decodeWord_encode (i : Instr) : decodeWord (encode i) = some i := by
  cases i <;> simp [encode, decodeWord, decodeGroup0, decodeGroup8, decodeGroupE, decodeGroupF]

theorem encode_injective {i j : Instr} (h : encode i = encode j) : i = j :=
  Option.some.inj (by rw [← decodeWord_encode i, h, decodeWord_encode])

/-- Every instruction is written as a line that an assembler accepts, and assembles to its canonical word. -/
theorem canonical (i : Instr) : Laws.Canonical.Statement i :=
  match i with
  | .clearScreen => Laws.Canonical.clearScreen
  | .ret => Laws.Canonical.ret
  | .jump nnn => Laws.Canonical.jump nnn
  | .call nnn => Laws.Canonical.call nnn
  | .skipEqImm x kk => Laws.Canonical.skipEqImm x kk
  | .skipNeqImm x kk => Laws.Canonical.skipNeqImm x kk
  | .skipEqReg x y => Laws.Canonical.skipEqReg x y
  | .skipNeqReg x y => Laws.Canonical.skipNeqReg x y
  | .loadImm x kk => Laws.Canonical.loadImm x kk
  | .addImm x kk => Laws.Canonical.addImm x kk
  | .move x y => Laws.Canonical.move x y
  | .bitOr x y => Laws.Canonical.bitOr x y
  | .bitAnd x y => Laws.Canonical.bitAnd x y
  | .bitXor x y => Laws.Canonical.bitXor x y
  | .add x y => Laws.Canonical.add x y
  | .sub x y => Laws.Canonical.sub x y
  | .shr x => Laws.Canonical.shr x
  | .subn x y => Laws.Canonical.subn x y
  | .shl x => Laws.Canonical.shl x
  | .setIndex nnn => Laws.Canonical.setIndex nnn
  | .jumpOffset nnn => Laws.Canonical.jumpOffset nnn
  | .random x kk => Laws.Canonical.random x kk
  | .draw x y n => Laws.Canonical.draw x y n
  | .skipIfKey x => Laws.Canonical.skipIfKey x
  | .skipIfNotKey x => Laws.Canonical.skipIfNotKey x
  | .getDelay x => Laws.Canonical.getDelay x
  | .waitKey x => Laws.Canonical.waitKey x
  | .setDelay x => Laws.Canonical.setDelay x
  | .setSound x => Laws.Canonical.setSound x
  | .addIndex x => Laws.Canonical.addIndex x
  | .fontAddress x => Laws.Canonical.fontAddress x
  | .storeBcd x => Laws.Canonical.storeBcd x
  | .storeRegs x => Laws.Canonical.storeRegs x
  | .loadRegs x => Laws.Canonical.loadRegs x

/-- Settles O1: each of the words is the canonical word of its instruction. -/
theorem canonicalWordsDecode : Obligations.CanonicalWordsDecode :=
  ⟨decodeWord_encode .clearScreen, decodeWord_encode .ret, decodeWord_encode (.jump 0x204),
    decodeWord_encode (.skipEqImm 1 0x40), decodeWord_encode (.add 0 1), decodeWord_encode (.shr 3),
    decodeWord_encode (.jumpOffset 0x300), decodeWord_encode (.draw 1 2 5), decodeWord_encode (.skipIfKey 4),
    decodeWord_encode (.waitKey 1), decodeWord_encode (.loadRegs 2)⟩

/-- Settles O2: the two bytes join to the canonical word, which decodes to its instruction. -/
theorem decodeOfEncode : Obligations.DecodeOfEncode := by
  intro i rest
  obtain ⟨hwf, _, _⟩ := canonical i
  exact ⟨hwf, by rw [encodeBytes, decode_wordBytes, decodeWord_encode]⟩

/-! ### A word from its fields, under each of the masks (R90, R95) -/

theorem packA_fields (w : Word) : packA (fieldGroup w) (fieldNnn w) = w := by
  apply BitVec.eq_of_toNat_eq
  rw [packA_toNat, fieldGroup_toNat, fieldNnn_toNat]
  omega

theorem packXK_fields (w : Word) : packXK (fieldGroup w) (fieldX w) (fieldKk w) = w := by
  apply BitVec.eq_of_toNat_eq
  rw [packXK_toNat, fieldGroup_toNat, fieldX_toNat, fieldKk_toNat]
  omega

theorem packXYN_fields (w : Word) : packXYN (fieldGroup w) (fieldX w) (fieldY w) (fieldN w) = w := by
  apply BitVec.eq_of_toNat_eq
  rw [packXYN_toNat, fieldGroup_toNat, fieldX_toNat, fieldY_toNat, fieldN_toNat]
  omega

theorem fieldGroup_and (w m : Word) : fieldGroup (w &&& m) = fieldGroup w &&& fieldGroup m := BitVec.extractLsb'_and
theorem fieldX_and (w m : Word) : fieldX (w &&& m) = fieldX w &&& fieldX m := BitVec.extractLsb'_and
theorem fieldY_and (w m : Word) : fieldY (w &&& m) = fieldY w &&& fieldY m := BitVec.extractLsb'_and
theorem fieldN_and (w m : Word) : fieldN (w &&& m) = fieldN w &&& fieldN m := BitVec.extractLsb'_and
theorem fieldNnn_and (w m : Word) : fieldNnn (w &&& m) = fieldNnn w &&& fieldNnn m := BitVec.extractLsb'_and
theorem fieldKk_and (w m : Word) : fieldKk (w &&& m) = fieldKk w &&& fieldKk m := BitVec.extractLsb'_and

theorem and_packA (w : Word) (g : Nibble) (a : Addr) :
    w &&& packA g a = packA (fieldGroup w &&& g) (fieldNnn w &&& a) := by
  rw [← packA_fields (w &&& _), fieldGroup_and, fieldNnn_and, fieldGroup_packA, fieldNnn_packA]

theorem and_packXK (w : Word) (g : Nibble) (x : RegId) (k : Byte) :
    w &&& packXK g x k = packXK (fieldGroup w &&& g) (fieldX w &&& x) (fieldKk w &&& k) := by
  rw [← packXK_fields (w &&& _), fieldGroup_and, fieldX_and, fieldKk_and, fieldGroup_packXK, fieldX_packXK, fieldKk_packXK]

theorem and_packXYN (w : Word) (g : Nibble) (x y : RegId) (n : Nibble) :
    w &&& packXYN g x y n = packXYN (fieldGroup w &&& g) (fieldX w &&& x) (fieldY w &&& y) (fieldN w &&& n) := by
  rw [← packXYN_fields (w &&& _), fieldGroup_and, fieldX_and, fieldY_and, fieldN_and, fieldGroup_packXYN,
    fieldX_packXYN, fieldY_packXYN, fieldN_packXYN]

section
variable {w : Word} {g : Nibble} (hg : (fieldGroup w).toNat = g.toNat)
include hg

theorem and_not_0_eq_packA : w &&& ~~~0 = packA g (fieldNnn w) := by
  rw [← BitVec.eq_of_toNat_eq hg, packA_fields]
  exact BitVec.and_allOnes

theorem and_not_0_eq_packXK {kk : Byte} (hk : (fieldKk w).toNat = kk.toNat) : w &&& ~~~0 = packXK g (fieldX w) kk := by
  rw [← BitVec.eq_of_toNat_eq hg, ← BitVec.eq_of_toNat_eq hk, packXK_fields]
  exact BitVec.and_allOnes

theorem and_not_0_eq_packXYN {n : Nibble} (hn : (fieldN w).toNat = n.toNat) :
    w &&& ~~~0 = packXYN g (fieldX w) (fieldY w) n := by
  rw [← BitVec.eq_of_toNat_eq hg, ← BitVec.eq_of_toNat_eq hn, packXYN_fields]
  exact BitVec.and_allOnes

theorem and_not_000F_eq_packXYN : w &&& ~~~0x000F = packXYN g (fieldX w) (fieldY w) 0 := by
  have h := and_packXYN w (BitVec.allOnes 4) (BitVec.allOnes 4) (BitVec.allOnes 4) 0#4
  simp only [BitVec.and_allOnes, BitVec.and_zero, BitVec.eq_of_toNat_eq hg] at h
  exact h

theorem and_not_00F0_eq_packXYN {n : Nibble} (hn : (fieldN w).toNat = n.toNat) :
    w &&& ~~~0x00F0 = packXYN g (fieldX w) 0 n := by
  have h := and_packXYN w (BitVec.allOnes 4) (BitVec.allOnes 4) 0#4 (BitVec.allOnes 4)
  simp only [BitVec.and_allOnes, BitVec.and_zero, BitVec.eq_of_toNat_eq hg, BitVec.eq_of_toNat_eq hn] at h
  exact h

theorem and_F0FF_eq_packXK {kk : Byte} (hk : (fieldKk w).toNat = kk.toNat) : w &&& 0xF0FF = packXK g 0 kk := by
  have h := and_packXK w (BitVec.allOnes 4) 0#4 (BitVec.allOnes 8)
  simp only [BitVec.and_allOnes, BitVec.and_zero, BitVec.eq_of_toNat_eq hg, BitVec.eq_of_toNat_eq hk] at h
  exact h

theorem and_F00F_eq_packXYN {n : Nibble} (hn : (fieldN w).toNat = n.toNat) : w &&& 0xF00F = packXYN g 0 0 n := by
  have h := and_packXYN w (BitVec.allOnes 4) 0#4 0#4 (BitVec.allOnes 4)
  simp only [BitVec.and_allOnes, BitVec.and_zero, BitVec.eq_of_toNat_eq hg, BitVec.eq_of_toNat_eq hn] at h
  exact h

theorem and_F000_eq_packA : w &&& 0xF000 = packA g 0 := by
  have h := and_packA w (BitVec.allOnes 4) 0#12
  simp only [BitVec.and_allOnes, BitVec.and_zero, BitVec.eq_of_toNat_eq hg] at h
  exact h

end

/-! ### What decode selects -/

section
variable {w : Word} {i : Instr}

theorem masked_of_decodeGroup0 (hg : (fieldGroup w).toNat = 0x0) (h : decodeGroup0 w = some i) :
    w &&& ~~~i.op.ignored = encode i := by
  rw [decodeGroup0] at h
  split at h
  case h_3 => cases h
  all_goals
    rename_i hk
    cases h
    exact and_F0FF_eq_packXK hg hk

theorem masked_of_decodeGroup8 (hg : (fieldGroup w).toNat = 0x8) (h : decodeGroup8 w = some i) :
    w &&& ~~~i.op.ignored = encode i := by
  rw [decodeGroup8] at h
  split at h
  case h_7 hn | h_9 hn => -- shr and shl
    cases h
    exact and_not_00F0_eq_packXYN hg hn
  case h_10 => cases h
  all_goals
    rename_i hn
    cases h
    exact and_not_0_eq_packXYN hg hn

theorem masked_of_decodeGroupE (hg : (fieldGroup w).toNat = 0xE) (h : decodeGroupE w = some i) :
    w &&& ~~~i.op.ignored = encode i := by
  rw [decodeGroupE] at h
  split at h
  case h_3 => cases h
  all_goals
    rename_i hk
    cases h
    exact and_not_0_eq_packXK hg hk

theorem masked_of_decodeGroupF (hg : (fieldGroup w).toNat = 0xF) (h : decodeGroupF w = some i) :
    w &&& ~~~i.op.ignored = encode i := by
  rw [decodeGroupF] at h
  split at h
  case h_10 => cases h
  all_goals
    rename_i hk
    cases h
    exact and_not_0_eq_packXK hg hk

/-- The bits that decode does not examine are those that the canonical word has 0. -/
theorem masked_of_decodeWord (h : decodeWord w = some i) : w &&& ~~~i.op.ignored = encode i := by
  rw [decodeWord] at h
  split at h
  case h_1 hg => exact masked_of_decodeGroup0 hg h
  case h_9 hg => exact masked_of_decodeGroup8 hg h
  case h_15 hg => exact masked_of_decodeGroupE hg h
  case h_16 hg => exact masked_of_decodeGroupF hg h
  case h_17 => cases h
  case h_2 hg | h_3 hg | h_11 hg | h_12 hg => -- the groups of format A
    cases h
    exact and_not_0_eq_packA hg
  case h_6 hg | h_10 hg => -- the register skips
    cases h
    exact and_not_000F_eq_packXYN hg
  case h_14 hg => -- draw
    cases h
    exact and_not_0_eq_packXYN hg rfl
  all_goals
    rename_i hg
    cases h
    exact and_not_0_eq_packXK hg rfl

end

theorem Op.group_of_matches {w : Word} {o : Op} (h : w &&& o.mask = o.pattern) : fieldGroup w = fieldGroup o.pattern := by
  have hm : fieldGroup o.mask = BitVec.allOnes 4 := by cases o <;> rfl
  rw [← h, fieldGroup_and, hm, BitVec.and_allOnes]

theorem Op.lowNibble_of_matches {w : Word} {o : Op} (h : w &&& o.mask = o.pattern) (hm : fieldN o.mask = BitVec.allOnes 4) :
    fieldN w = fieldN o.pattern := by
  rw [← h, fieldN_and, hm, BitVec.and_allOnes]

theorem Op.lowByte_of_matches {w : Word} {o : Op} (h : w &&& o.mask = o.pattern) (hm : fieldKk o.mask = BitVec.allOnes 8) :
    fieldKk w = fieldKk o.pattern := by
  rw [← h, fieldKk_and, hm, BitVec.and_allOnes]

/-- The group, and in groups 0, 8, E and F the low nibble or byte, are those of the row's pattern. -/
theorem Op.decodeWord_op_of_matches {w : Word} {o : Op} (h : w &&& o.mask = o.pattern) :
    (decodeWord w).map Instr.op = some o := by
  have hg := congrArg BitVec.toNat (Op.group_of_matches h)
  have hn := fun hm => congrArg BitVec.toNat (Op.lowNibble_of_matches h hm)
  have hk := fun hm => congrArg BitVec.toNat (Op.lowByte_of_matches h hm)
  cases o
  case clearScreen | ret => simp only [decodeWord, hg, decodeGroup0, hk rfl]; rfl
  case move | bitOr | bitAnd | bitXor | add | sub | shr | subn | shl =>
    simp only [decodeWord, hg, decodeGroup8, hn rfl]; rfl
  case skipIfKey | skipIfNotKey => simp only [decodeWord, hg, decodeGroupE, hk rfl]; rfl
  case getDelay | waitKey | setDelay | setSound | addIndex | fontAddress | storeBcd | storeRegs | loadRegs =>
    simp only [decodeWord, hg, decodeGroupF, hk rfl]; rfl
  all_goals simp only [decodeWord, hg]; rfl

theorem Op.not_ignored_and_mask (o : Op) : ~~~o.ignored &&& o.mask = o.mask := by
  cases o <;> rfl

theorem encode_and_mask (i : Instr) : encode i &&& i.op.mask = i.op.pattern := by
  cases i
  case jump | call | setIndex | jumpOffset => exact and_F000_eq_packA (congrArg _ (fieldGroup_packA _ _))
  case skipEqImm | skipNeqImm | loadImm | addImm | random =>
    exact and_F000_eq_packA (congrArg _ (fieldGroup_packXK _ _ _))
  case skipEqReg | skipNeqReg | draw => exact and_F000_eq_packA (congrArg _ (fieldGroup_packXYN _ _ _ _))
  case move | bitOr | bitAnd | bitXor | add | sub | shr | subn | shl =>
    exact and_F00F_eq_packXYN (congrArg _ (fieldGroup_packXYN _ _ _ _)) (congrArg _ (fieldN_packXYN _ _ _ _))
  all_goals exact and_F0FF_eq_packXK (congrArg _ (fieldGroup_packXK _ _ _)) (congrArg _ (fieldKk_packXK _ _ _))

theorem matches_of_decodeWord {w : Word} {i : Instr} (h : decodeWord w = some i) : w &&& i.op.mask = i.op.pattern := by
  rw [← Op.not_ignored_and_mask, ← BitVec.and_assoc, masked_of_decodeWord h, encode_and_mask]

theorem decodeWord_op_iff (w : Word) (o : Op) :
    (∃ i, decodeWord w = some i ∧ i.op = o) ↔ w &&& o.mask = o.pattern := by
  constructor
  · rintro ⟨i, h, rfl⟩
    exact matches_of_decodeWord h
  · exact fun h => Option.map_eq_some_iff.mp (Op.decodeWord_op_of_matches h)

/-- Settles O3: where a word matches two rows, the one instruction it decodes to is of both. -/
theorem decodeSelectsTheMatchingRow : Obligations.DecodeSelectsTheMatchingRow := by
  refine ⟨decodeWord_op_iff, fun w o o' h h' => ?_⟩
  have hop := Op.decodeWord_op_of_matches h
  rw [Op.decodeWord_op_of_matches h'] at hop
  exact (Option.some.inj hop).symm

/-- Settles O4: a word that agrees with the canonical word under `~~~ignored` agrees with it under the mask, so it decodes to an
instruction of that row, which has the same canonical word. -/
theorem unexaminedBitsDoNotMatter : Obligations.UnexaminedBitsDoNotMatter := by
  refine fun w i => ⟨masked_of_decodeWord, fun h => ?_⟩
  have hm : w &&& i.op.mask = i.op.pattern := by
    rw [← Op.not_ignored_and_mask, ← BitVec.and_assoc, h, encode_and_mask]
  obtain ⟨j, hj, hop⟩ := (decodeWord_op_iff w i.op).mpr hm
  have hij : encode j = encode i := by rw [← masked_of_decodeWord hj, hop, h]
  rw [hj, encode_injective hij]

/-! ### The words that decode to nothing (R93) -/

theorem decodeGroup0_eq_none (w : Word) : decodeGroup0 w = none ↔ w.toNat % 256 ∉ [0xE0, 0xEE] := by
  rw [decodeGroup0, fieldKk_toNat]
  split <;> simp_all

theorem decodeGroup8_eq_none (w : Word) : decodeGroup8 w = none ↔ w.toNat % 16 ∈ [8, 9, 0xA, 0xB, 0xC, 0xD, 0xF] := by
  rw [decodeGroup8, fieldN_toNat]
  split <;> simp_all
  omega

theorem decodeGroupE_eq_none (w : Word) : decodeGroupE w = none ↔ w.toNat % 256 ∉ [0x9E, 0xA1] := by
  rw [decodeGroupE, fieldKk_toNat]
  split <;> simp_all

theorem decodeGroupF_eq_none (w : Word) :
    decodeGroupF w = none ↔ w.toNat % 256 ∉ [0x07, 0x0A, 0x15, 0x18, 0x1E, 0x29, 0x33, 0x55, 0x65] := by
  rw [decodeGroupF, fieldKk_toNat]
  split <;> simp_all

/-- Settles O5: groups 0, 8, E and F by their own tables. In every other group a word decodes to an instruction. -/
theorem unrecognizedWordsAreTheListedOnes : Obligations.UnrecognizedWordsAreTheListedOnes := by
  intro w
  have hlt := w.isLt
  rw [decodeWord, fieldGroup_toNat]
  split
  case h_1 hg => simp [hg, decodeGroup0_eq_none]
  case h_9 hg => simp [hg, decodeGroup8_eq_none]
  case h_15 hg => simp [hg, decodeGroupE_eq_none]
  case h_16 hg => simp [hg, decodeGroupF_eq_none]
  case h_17 =>
    simp only [imp_false] at *
    omega
  all_goals
    rename_i hg
    simp [hg]

/-! ### The lines that an assembler accepts (R96) -/

theorem Operand.fits_reg {o : Operand} (h : o.fits .reg = true) : ∃ x : RegId, o = .reg x.toNat := by
  cases o with
  | reg k => exact ⟨BitVec.ofNat 4 k, by rw [BitVec.toNat_ofNat, Nat.mod_eq_of_lt (of_decide_eq_true h)]⟩
  | imm v => cases h

theorem Operand.fits_byte {o : Operand} (h : o.fits .byte = true) : ∃ kk : Byte, o = .imm kk.toNat := by
  cases o with
  | reg k => cases h
  | imm v => exact ⟨BitVec.ofNat 8 v, by rw [BitVec.toNat_ofNat, Nat.mod_eq_of_lt (of_decide_eq_true h)]⟩

theorem Operand.fits_addr {o : Operand} (h : o.fits .addr = true) : ∃ nnn : Addr, o = .imm nnn.toNat := by
  cases o with
  | reg k => cases h
  | imm v => exact ⟨BitVec.ofNat 12 v, by rw [BitVec.toNat_ofNat, Nat.mod_eq_of_lt (of_decide_eq_true h)]⟩

theorem Operand.fits_nibble {o : Operand} (h : o.fits .nibble = true) : ∃ n : Nibble, o = .imm n.toNat := by
  cases o with
  | reg k => cases h
  | imm v => exact ⟨BitVec.ofNat 4 v, by rw [BitVec.toNat_ofNat, Nat.mod_eq_of_lt (of_decide_eq_true h)]⟩

theorem operandsFit_nil {os : List Operand} (h : operandsFit [] os = true) : os = [] := by
  cases os with
  | nil => rfl
  | cons o os => cases h

theorem operandsFit_cons {k : OperandKind} {ks : List OperandKind} {os : List Operand} (h : operandsFit (k :: ks) os = true) :
    ∃ o rest, os = o :: rest ∧ o.fits k = true ∧ operandsFit ks rest = true := by
  cases os with
  | nil => cases h
  | cons o rest => exact ⟨o, rest, rfl, Bool.and_eq_true_iff.mp h⟩

theorem operandsFit_addr {os : List Operand} (h : operandsFit [.addr] os = true) : ∃ nnn : Addr, os = [.imm nnn.toNat] := by
  obtain ⟨o, rest, rfl, ho, hrest⟩ := operandsFit_cons h
  obtain ⟨nnn, rfl⟩ := Operand.fits_addr ho
  exact ⟨nnn, by rw [operandsFit_nil hrest]⟩

/-- A register, and after it what the remaining kinds require. -/
theorem operandsFit_reg_cons {ks : List OperandKind} {os : List Operand} (h : operandsFit (.reg :: ks) os = true) :
    ∃ (x : RegId) (rest : List Operand), os = .reg x.toNat :: rest ∧ operandsFit ks rest = true := by
  obtain ⟨o, rest, rfl, ho, hrest⟩ := operandsFit_cons h
  obtain ⟨x, rfl⟩ := Operand.fits_reg ho
  exact ⟨x, rest, rfl, hrest⟩

theorem operandsFit_reg {os : List Operand} (h : operandsFit [.reg] os = true) : ∃ x : RegId, os = [.reg x.toNat] := by
  obtain ⟨x, rest, rfl, hrest⟩ := operandsFit_reg_cons h
  exact ⟨x, by rw [operandsFit_nil hrest]⟩

theorem operandsFit_reg_byte {os : List Operand} (h : operandsFit [.reg, .byte] os = true) :
    ∃ (x : RegId) (kk : Byte), os = [.reg x.toNat, .imm kk.toNat] := by
  obtain ⟨x, rest, rfl, hrest⟩ := operandsFit_reg_cons h
  obtain ⟨o, rest', rfl, ho, hnil⟩ := operandsFit_cons hrest
  obtain ⟨kk, rfl⟩ := Operand.fits_byte ho
  exact ⟨x, kk, by rw [operandsFit_nil hnil]⟩

theorem operandsFit_reg_reg {os : List Operand} (h : operandsFit [.reg, .reg] os = true) :
    ∃ x y : RegId, os = [.reg x.toNat, .reg y.toNat] := by
  obtain ⟨x, rest, rfl, hrest⟩ := operandsFit_reg_cons h
  obtain ⟨y, rfl⟩ := operandsFit_reg hrest
  exact ⟨x, y, rfl⟩

theorem operandsFit_reg_reg_nibble {os : List Operand} (h : operandsFit [.reg, .reg, .nibble] os = true) :
    ∃ (x y : RegId) (n : Nibble), os = [.reg x.toNat, .reg y.toNat, .imm n.toNat] := by
  obtain ⟨x, rest, rfl, hrest⟩ := operandsFit_reg_cons h
  obtain ⟨y, rest', rfl, hrest'⟩ := operandsFit_reg_cons hrest
  obtain ⟨o, rest'', rfl, ho, hnil⟩ := operandsFit_cons hrest'
  obtain ⟨n, rfl⟩ := Operand.fits_nibble ho
  exact ⟨x, y, n, by rw [operandsFit_nil hnil]⟩

/-- Operands that fit a row are those of an instruction of that row. -/
theorem exists_line_of_operandsFit {os : List Operand} :
    ∀ o : Op, operandsFit o.operands os = true → ∃ i : Instr, i.line = ⟨o, os⟩
  | .clearScreen, h => ⟨.clearScreen, by rw [operandsFit_nil h]; rfl⟩
  | .ret, h => ⟨.ret, by rw [operandsFit_nil h]; rfl⟩
  | .jump, h => by obtain ⟨nnn, rfl⟩ := operandsFit_addr h; exact ⟨.jump nnn, rfl⟩
  | .call, h => by obtain ⟨nnn, rfl⟩ := operandsFit_addr h; exact ⟨.call nnn, rfl⟩
  | .skipEqImm, h => by obtain ⟨x, kk, rfl⟩ := operandsFit_reg_byte h; exact ⟨.skipEqImm x kk, rfl⟩
  | .skipNeqImm, h => by obtain ⟨x, kk, rfl⟩ := operandsFit_reg_byte h; exact ⟨.skipNeqImm x kk, rfl⟩
  | .skipEqReg, h => by obtain ⟨x, y, rfl⟩ := operandsFit_reg_reg h; exact ⟨.skipEqReg x y, rfl⟩
  | .skipNeqReg, h => by obtain ⟨x, y, rfl⟩ := operandsFit_reg_reg h; exact ⟨.skipNeqReg x y, rfl⟩
  | .loadImm, h => by obtain ⟨x, kk, rfl⟩ := operandsFit_reg_byte h; exact ⟨.loadImm x kk, rfl⟩
  | .addImm, h => by obtain ⟨x, kk, rfl⟩ := operandsFit_reg_byte h; exact ⟨.addImm x kk, rfl⟩
  | .move, h => by obtain ⟨x, y, rfl⟩ := operandsFit_reg_reg h; exact ⟨.move x y, rfl⟩
  | .bitOr, h => by obtain ⟨x, y, rfl⟩ := operandsFit_reg_reg h; exact ⟨.bitOr x y, rfl⟩
  | .bitAnd, h => by obtain ⟨x, y, rfl⟩ := operandsFit_reg_reg h; exact ⟨.bitAnd x y, rfl⟩
  | .bitXor, h => by obtain ⟨x, y, rfl⟩ := operandsFit_reg_reg h; exact ⟨.bitXor x y, rfl⟩
  | .add, h => by obtain ⟨x, y, rfl⟩ := operandsFit_reg_reg h; exact ⟨.add x y, rfl⟩
  | .sub, h => by obtain ⟨x, y, rfl⟩ := operandsFit_reg_reg h; exact ⟨.sub x y, rfl⟩
  | .shr, h => by obtain ⟨x, rfl⟩ := operandsFit_reg h; exact ⟨.shr x, rfl⟩
  | .subn, h => by obtain ⟨x, y, rfl⟩ := operandsFit_reg_reg h; exact ⟨.subn x y, rfl⟩
  | .shl, h => by obtain ⟨x, rfl⟩ := operandsFit_reg h; exact ⟨.shl x, rfl⟩
  | .setIndex, h => by obtain ⟨nnn, rfl⟩ := operandsFit_addr h; exact ⟨.setIndex nnn, rfl⟩
  | .jumpOffset, h => by obtain ⟨nnn, rfl⟩ := operandsFit_addr h; exact ⟨.jumpOffset nnn, rfl⟩
  | .random, h => by obtain ⟨x, kk, rfl⟩ := operandsFit_reg_byte h; exact ⟨.random x kk, rfl⟩
  | .draw, h => by obtain ⟨x, y, n, rfl⟩ := operandsFit_reg_reg_nibble h; exact ⟨.draw x y n, rfl⟩
  | .skipIfKey, h => by obtain ⟨x, rfl⟩ := operandsFit_reg h; exact ⟨.skipIfKey x, rfl⟩
  | .skipIfNotKey, h => by obtain ⟨x, rfl⟩ := operandsFit_reg h; exact ⟨.skipIfNotKey x, rfl⟩
  | .getDelay, h => by obtain ⟨x, rfl⟩ := operandsFit_reg h; exact ⟨.getDelay x, rfl⟩
  | .waitKey, h => by obtain ⟨x, rfl⟩ := operandsFit_reg h; exact ⟨.waitKey x, rfl⟩
  | .setDelay, h => by obtain ⟨x, rfl⟩ := operandsFit_reg h; exact ⟨.setDelay x, rfl⟩
  | .setSound, h => by obtain ⟨x, rfl⟩ := operandsFit_reg h; exact ⟨.setSound x, rfl⟩
  | .addIndex, h => by obtain ⟨x, rfl⟩ := operandsFit_reg h; exact ⟨.addIndex x, rfl⟩
  | .fontAddress, h => by obtain ⟨x, rfl⟩ := operandsFit_reg h; exact ⟨.fontAddress x, rfl⟩
  | .storeBcd, h => by obtain ⟨x, rfl⟩ := operandsFit_reg h; exact ⟨.storeBcd x, rfl⟩
  | .storeRegs, h => by obtain ⟨x, rfl⟩ := operandsFit_reg h; exact ⟨.storeRegs x, rfl⟩
  | .loadRegs, h => by obtain ⟨x, rfl⟩ := operandsFit_reg h; exact ⟨.loadRegs x, rfl⟩

theorem assemble_of_wellFormed {l : Line} (h : l.wellFormed = true) :
    ∃ i : Instr, i.line = l ∧ assemble l = some (encode i) := by
  obtain ⟨i, hi⟩ : ∃ i : Instr, i.line = l := exists_line_of_operandsFit l.op h
  obtain ⟨_, _, ha⟩ := canonical i
  exact ⟨i, hi, hi ▸ ha⟩

theorem assemble_eq_none {l : Line} (h : l.wellFormed = false) : assemble l = none := by
  simp [assemble, h]

/-- Settles O6: an accepted line is the line of an instruction, and assembles to that instruction's canonical word. -/
theorem assemblerRefusesWhatDoesNotFit : Obligations.AssemblerRefusesWhatDoesNotFit := by
  refine ⟨fun l => ⟨fun hnone => ?_, assemble_eq_none⟩, fun l w hw => ?_⟩
  · by_contra hl
    obtain ⟨i, _, ha⟩ := assemble_of_wellFormed (Bool.eq_true_of_not_eq_false hl)
    simp [ha] at hnone
  · have hl : l.wellFormed = true := by
      by_contra hl
      simp [assemble_eq_none (Bool.eq_false_of_not_eq_true hl)] at hw
    obtain ⟨i, hi, ha⟩ := assemble_of_wellFormed hl
    rw [ha] at hw
    exact ⟨i, Option.some.inj hw ▸ decodeWord_encode i, hi⟩

end Sys2Proof
end

section
/-! What an instruction can do, said once: the condition under which it runs, the state it then leaves, and the fatal stop
otherwise (60_exceptions R201, R205). -/

namespace Sys2Proof.Machine

/-! ### Bounds before effects (R57) -/

theorem inRange_iff {s : State} {n : Nat} : InRange s n ↔ n = 0 ∨ s.idx.toNat + n ≤ 4096 := by
  unfold InRange
  omega

theorem withRange_of_inRange {s : State} {n : Nat} (h : InRange s n) (o : Outcome) : s.withRange n o = o :=
  State.withRange_ok (inRange_iff.mp h)

theorem withRange_of_not_inRange {s : State} {n : Nat} (h : ¬ InRange s n) (o : Outcome) :
    s.withRange n o = s.raise .memoryOutOfRange (firstBad s) := by
  rw [inRange_iff, not_or] at h
  obtain ⟨hn, hend⟩ := h
  exact State.withRange_fatal (Nat.one_le_iff_ne_zero.mpr hn) (Nat.lt_of_not_le hend)

/-! ### The condition, the effect and the stop -/

/-- The instruction does not stop in `s` (R110, R112, R57). -/
def Runs (i : Instr) (s : State) : Prop :=
  match i with
  | .ret => s.sp ≠ 0
  | .call _ => s.sp ≠ 15
  | .draw _ y n => InRange s (rowsOf s y n)
  | .storeBcd _ => InRange s 3
  | .storeRegs x | .loadRegs x => InRange s (x.toNat + 1)
  | _ => True

/-- The frame and the collision flag after `draw X,Y,N` (R171). -/
def drawn (x y : RegId) (n : Nibble) (s : State) : Frame × Bool :=
  plotRows s.mem s.idx.toNat (originX s x) (originY s y) (rowsOf s y n) (s.fb, false)

/-- The state that the instruction leaves where it runs. -/
def effect (i : Instr) (s : State) : State :=
  match i with
  | .clearScreen => { s with fb := Frame.blank }.advance
  | .ret => { s with pc := s.slot s.sp, sp := s.sp - 1 }
  | .jump nnn => s.jumpTo (zextAddr nnn)
  | .call nnn => (s.push (s.pc + 2)).jumpTo (zextAddr nnn)
  | .skipEqImm x kk => s.skipIf (s.reg x == kk)
  | .skipNeqImm x kk => s.skipIf (s.reg x != kk)
  | .skipEqReg x y => s.skipIf (s.reg x == s.reg y)
  | .skipNeqReg x y => s.skipIf (s.reg x != s.reg y)
  | .loadImm x kk => (s.setReg x kk).advance
  | .addImm x kk => (s.setReg x (s.reg x + kk)).advance
  | .move x y => (s.setReg x (s.reg y)).advance
  | .bitOr x y => (s.resultThenFlag x (s.reg x ||| s.reg y) false).advance
  | .bitAnd x y => (s.resultThenFlag x (s.reg x &&& s.reg y) false).advance
  | .bitXor x y => (s.resultThenFlag x (s.reg x ^^^ s.reg y) false).advance
  | .add x y =>
    (s.resultThenFlag x (BitVec.ofNat 8 (exactSum (s.reg x) (s.reg y))) (carry (s.reg x) (s.reg y))).advance
  | .sub x y =>
    let t := s.setFlag (notBorrow (s.reg x) (s.reg y))
    (t.setReg x (t.reg x - t.reg y)).advance
  | .shr x =>
    let t := s.setFlag (lowBit (s.reg x))
    (t.setReg x (t.reg x >>> 1)).advance
  | .subn x y =>
    let t := s.setFlag (notBorrow (s.reg y) (s.reg x))
    (t.setReg x (t.reg y - t.reg x)).advance
  | .shl x =>
    let t := s.setFlag (highBit (s.reg x))
    (t.setReg x (t.reg x <<< 1)).advance
  | .setIndex nnn => { s with idx := zextAddr nnn }.advance
  | .jumpOffset nnn => s.jumpTo (zextAddr nnn + zextByte (s.reg 0))
  | .random x kk => (s.dropRandom.setReg x (s.nextRandom &&& kk)).advance
  | .draw x y n => ({ s with fb := (drawn x y n s).1 }.setFlag (drawn x y n s).2).advance
  | .skipIfKey x => s.keyDecayRead.skipIf (keyEquals s.keyDecayRead.lastKey (s.reg x))
  | .skipIfNotKey x => s.keyDecayRead.skipIf (!keyEquals s.keyDecayRead.lastKey (s.reg x))
  | .getDelay x => (s.setReg x s.dt).advance
  | .waitKey x => s.dropKey.acceptKey x s.keyBlockRead
  | .setDelay x => { s with dt := s.reg x }.advance
  | .setSound x => { s with st := s.reg x }.advance
  | .addIndex x => { s with idx := s.idx + zextByte (s.reg x) }.advance
  | .fontAddress x => { s with idx := glyphAddress (s.reg x) }.advance
  | .storeBcd x => { s with mem := s.mem.putList s.idx.toNat (bcdDigits (s.reg x)) }.advance
  | .storeRegs x => { s with mem := storeRange s s.idx.toNat (x.toNat + 1) }.advance
  | .loadRegs x => { s with v := (loadRange s s.idx.toNat (x.toNat + 1)).v }.advance

/-- The kind of the stop of an instruction that does not run. -/
def stopKind : Instr → FatalKind
  | .ret => .stackUnderflow
  | .call _ => .stackOverflow
  | _ => .memoryOutOfRange

/-- The `info` of that stop (R200). -/
def stopInfo (i : Instr) (s : State) : Nat :=
  match i with
  | .ret => 0
  | .call _ => 16
  | _ => firstBad s

theorem exec_of_runs {i : Instr} {s : State} (h : Runs i s) : exec i s = .next (effect i s) := by
  cases i
  case ret | call => exact if_neg h
  case draw | storeBcd | storeRegs => exact withRange_of_inRange h _
  case loadRegs x =>
    refine (withRange_of_inRange h _).trans ?_
    rw [loadRange_rest, effect]
  all_goals rfl

theorem exec_of_not_runs {i : Instr} {s : State} (h : ¬ Runs i s) : exec i s = s.raise (stopKind i) (stopInfo i s) := by
  cases i
  case ret | call => exact if_pos (not_not.mp h)
  case draw | storeBcd | storeRegs | loadRegs => exact withRange_of_not_inRange h _
  all_goals exact absurd trivial h

theorem mayRaise_stopKind {i : Instr} {s : State} (h : ¬ Runs i s) : mayRaise i.op (stopKind i) := by
  cases i
  case ret => exact .inr (.inl ⟨rfl, rfl⟩)
  case call => exact .inl ⟨rfl, rfl⟩
  case draw | storeBcd | storeRegs | loadRegs => exact .inr (.inr ⟨by simp [Instr.op], rfl⟩)
  all_goals exact absurd trivial h

/-- The fatal stop of an instruction that does not run. -/
theorem exec_stops {i : Instr} {s : State} (h : ¬ Runs i s) :
    ∃ t, exec i s = .next t ∧ StoppedBy s t (stopKind i) (stopInfo i s) :=
  ⟨_, exec_of_not_runs h, stoppedBy_fatalStop s _ _⟩

/-- What an instruction can do: its effect, or a fatal stop. -/
theorem exec_cases {i : Instr} {s t : State} (h : exec i s = .next t) :
    (Runs i s ∧ t = effect i s) ∨ ∃ r, t = s.fatalStop r := by
  by_cases hr : Runs i s
  · rw [exec_of_runs hr] at h
    cases h
    exact .inl ⟨hr, rfl⟩
  · rw [exec_of_not_runs hr] at h
    cases h
    exact .inr ⟨_, rfl⟩

/-! ### The status record -/

@[simp] theorem effect_halted (i : Instr) (s : State) : (effect i s).halted = s.halted := by cases i <;> rfl
@[simp] theorem effect_fatal (i : Instr) (s : State) : (effect i s).fatal = s.fatal := by cases i <;> rfl
@[simp] theorem effect_exitCode (i : Instr) (s : State) : (effect i s).exitCode = s.exitCode := by cases i <;> rfl

/-- Settles O48: an instruction that runs leaves the three fields of the status record, and one that does not is the fatal stop
of its row. -/
theorem execStopsPreciselyOrRuns : Obligations.ExecStopsPreciselyOrRuns := by
  intro i s
  by_cases h : Runs i s
  · exact ⟨_, exec_of_runs h, .inl ⟨effect_halted i s, effect_fatal i s, effect_exitCode i s⟩⟩
  · obtain ⟨t, ht, hstop⟩ := exec_stops h
    exact ⟨t, ht, .inr ⟨_, _, mayRaise_stopKind h, hstop⟩⟩

end Sys2Proof.Machine
end

section
/-! Control transfer with the stack (40_control_transfer R110 to R113): what return and call do to `sp` and the slots. -/

namespace Sys2Proof.Machine

/-! ### Subroutines -/

/-- Settles O7: return runs exactly where `sp` is not 0. -/
theorem returnPopsTheStack : Obligations.ReturnPopsTheStack := by
  refine fun s => ⟨fun h => ?_, fun h => ?_⟩
  · have hr : Runs .ret s := fun e => h (congrArg BitVec.toNat e)
    refine ⟨_, exec_of_runs hr, rfl, ?_, ⟨fun _ => rfl, fun _ => rfl⟩, rfl⟩
    exact BitVec.toNat_sub_of_le (BitVec.le_def.mpr (show (1 : BitVec 4).toNat ≤ _ from Nat.one_le_iff_ne_zero.mpr h))
  · exact exec_stops (i := .ret) (fun hr => hr (BitVec.eq_of_toNat_eq h))

/-- The new `sp` of a call that runs does not wrap. -/
theorem sp_add_one_toNat {s : State} (h : s.sp.toNat ≠ 15) : (s.sp + 1).toNat = s.sp.toNat + 1 := by
  have := s.sp.isLt
  rw [BitVec.toNat_add_of_lt (by simp; omega)]
  rfl

theorem sp_add_one_ne_zero {s : State} (h : s.sp.toNat ≠ 15) : s.sp + 1 ≠ 0 := by
  intro e
  have := sp_add_one_toNat h
  rw [e] at this
  cases this

theorem runs_call {s : State} (nnn : Addr) (h : s.sp.toNat ≠ 15) : Runs (.call nnn) s :=
  fun e => h (congrArg BitVec.toNat e)

/-- Settles O10: call runs exactly where `sp` is not 15, and writes the slot above `sp`. -/
theorem callPushesTheReturnAddress : Obligations.CallPushesTheReturnAddress := by
  refine fun s nnn => ⟨fun h => ?_, fun h => ?_⟩
  · refine ⟨_, exec_of_runs (runs_call nnn h), zextAddr_toNat nnn, sp_add_one_toNat h, ?_, fun k hk => ?_,
      ⟨fun _ => rfl, fun _ => rfl⟩, rfl⟩
    · exact (State.slot_push s _ _).trans (if_pos rfl)
    · exact (State.slot_push s k _).trans (if_neg hk)
  · exact exec_stops (i := .call nnn) (fun hr => hr (BitVec.eq_of_toNat_eq h))

/-- Settles O11: the return reads the slot that the call wrote, and the two changes of `sp` cancel. -/
theorem callThenReturnComesBack : Obligations.CallThenReturnComesBack := by
  intro s nnn h
  have hret : Runs .ret (effect (.call nnn) s) := sp_add_one_ne_zero h
  have hsp : s.sp + 1 - 1 = s.sp := BitVec.add_sub_cancel _ _
  refine ⟨_, _, exec_of_runs (runs_call nnn h), exec_of_runs hret, ?_, fun k hk => ?_, ?_⟩
  · exact (State.slot_push s _ _).trans (if_pos rfl)
  · exact (State.slot_push s k _).trans (if_neg hk)
  · exact congrArg (fun p => { effect .ret (effect (.call nnn) s) with sp := p }) hsp

/-! ### Jumps -/

/-- Settles O9: `pc` is the one field a jump writes, and it already holds the target. -/
theorem selfJumpChangesNothing : Obligations.SelfJumpChangesNothing := by
  intro s nnn h
  have hpc : zextAddr nnn = s.pc := BitVec.eq_of_toNat_eq ((zextAddr_toNat nnn).trans h)
  rw [exec_jump, hpc]
  rfl

@[simp] theorem zextByte_toNat (b : Byte) : (zextByte b).toNat = b.toNat :=
  BitVec.toNat_setWidth_of_le (by decide)

/-- The sum of a 12-bit and an 8-bit value fits the word (R113). -/
theorem jumpOffset_target_toNat (nnn : Addr) (b : Byte) : (zextAddr nnn + zextByte b).toNat = nnn.toNat + b.toNat := by
  rw [BitVec.toNat_add, zextAddr_toNat, zextByte_toNat]
  omega

/-- Settles O13: the target is the sum of two values that fit the word, so it is exact. -/
theorem jumpOffsetAddsV0 : Obligations.JumpOffsetAddsV0 := fun s nnn =>
  ⟨_, exec_of_runs (i := .jumpOffset nnn) trivial, jumpOffset_target_toNat nnn _, onlyPc_jumpTo s _⟩

end Sys2Proof.Machine
end

section
/-! Subtractions, shifts and the random port (41_register_alu R137 to R143): the flag is written first, and what follows reads the
registers as it left them. -/

namespace Sys2Proof.Machine

/-! ### Flag, then result -/

/-- The flag is written, then the result (R143). -/
def State.flagThenResult (s : State) (f : Bool) (x : RegId) (b : Byte) : State := ((s.setFlag f).setReg x b).advance

theorem onlyRegs_flagThenResult (s : State) (f : Bool) (x : RegId) (b : Byte) :
    OnlyRegs s (s.flagThenResult f x b) [x, 15] :=
  (((OnlyRegs.refl s [x, 15]).setReg (r := flagReg) (by simp [flagReg]) (flagByte f)).setReg (by simp) b).advance

theorem flagThenResult_result (s : State) (f : Bool) (x : RegId) (b : Byte) : (s.flagThenResult f x b).reg x = b :=
  setReg_advance_reg_self (s.setFlag f) x b

theorem flagThenResult_flag (s : State) (f : Bool) {x : RegId} (hx : x ≠ 15) (b : Byte) :
    (s.flagThenResult f x b).reg 15 = flagByte f := by
  rw [State.flagThenResult, State.advance_reg, State.reg_setReg_ne _ hx.symm]
  exact State.reg_setReg_self s flagReg _

theorem setFlag_reg_ne (s : State) (f : Bool) {r : RegId} (hr : r ≠ 15) : (s.setFlag f).reg r = s.reg r :=
  State.reg_setReg_ne s (r := flagReg) hr _

theorem setFlag_reg_flag (s : State) (f : Bool) : (s.setFlag f).reg 15 = flagByte f :=
  State.reg_setReg_self s flagReg _

/-- A register as the flag left it. -/
theorem setFlag_reg_toNat (s : State) (f : Bool) (r : RegId) :
    ((s.setFlag f).reg r).toNat = if r = 15 then (if f then 1 else 0) else (s.reg r).toNat := by
  by_cases hr : r = 15
  · rw [hr, setFlag_reg_flag, flagByte_toNat, if_pos rfl]
  · rw [setFlag_reg_ne s f hr, if_neg hr]

theorem exec_sub (x y : RegId) (s : State) : exec (.sub x y) s =
    .next (s.flagThenResult (notBorrow (s.reg x) (s.reg y)) x
      ((s.setFlag (notBorrow (s.reg x) (s.reg y))).reg x - (s.setFlag (notBorrow (s.reg x) (s.reg y))).reg y)) := rfl

theorem exec_subn (x y : RegId) (s : State) : exec (.subn x y) s =
    .next (s.flagThenResult (notBorrow (s.reg y) (s.reg x)) x
      ((s.setFlag (notBorrow (s.reg y) (s.reg x))).reg y - (s.setFlag (notBorrow (s.reg y) (s.reg x))).reg x)) := rfl

theorem exec_shr (x : RegId) (s : State) : exec (.shr x) s =
    .next (s.flagThenResult (lowBit (s.reg x)) x ((s.setFlag (lowBit (s.reg x))).reg x >>> 1)) := rfl

theorem exec_shl (x : RegId) (s : State) : exec (.shl x) s =
    .next (s.flagThenResult (highBit (s.reg x)) x ((s.setFlag (highBit (s.reg x))).reg x <<< 1)) := rfl

/-! ### Bytes as numbers -/

theorem byte_sub_toNat (a b : Byte) : (a - b).toNat = (a.toNat + 256 - b.toNat) % 256 := by
  rw [BitVec.toNat_sub]
  omega

theorem byte_shr_toNat (b : Byte) : (b >>> 1).toNat = b.toNat / 2 := by
  rw [BitVec.toNat_ushiftRight, Nat.shiftRight_eq_div_pow]

theorem byte_shl_toNat (b : Byte) : (b <<< 1).toNat = b.toNat * 2 % 256 := by
  rw [BitVec.toNat_shiftLeft, Nat.shiftLeft_eq]

theorem flagByte_lowBit_toNat (b : Byte) : (flagByte (lowBit b)).toNat = b.toNat % 2 := by
  rw [flagByte_toNat, lowBit, BitVec.getLsbD, Nat.testBit_zero]
  split <;> simp_all

theorem flagByte_highBit_toNat (b : Byte) : (flagByte (highBit b)).toNat = b.toNat / 128 := by
  have := b.isLt
  rw [flagByte_toNat, highBit, BitVec.getLsbD, Nat.testBit_eq_decide_div_mod_eq]
  split <;> simp_all <;> omega

/-! ### The obligations -/

/-- Settles O17: the flag is the comparison of the registers before, and the difference is of the registers after it. -/
theorem subtractionsReportNoBorrow : Obligations.SubtractionsReportNoBorrow := by
  refine fun s x y => ⟨⟨_, exec_sub x y s, ⟨?_, fun hx => ?_⟩, rfl, onlyRegs_flagThenResult s _ x _⟩,
    ⟨_, exec_subn x y s, ⟨?_, fun hx => ?_⟩, rfl, onlyRegs_flagThenResult s _ x _⟩⟩
  · simp only [flagThenResult_result, byte_sub_toNat, setFlag_reg_toNat, notBorrow, decide_eq_true_eq]
  · simp only [flagThenResult_flag s _ hx, flagByte_toNat, notBorrow, decide_eq_true_eq]
  · simp only [flagThenResult_result, byte_sub_toNat, setFlag_reg_toNat, notBorrow, decide_eq_true_eq]
  · simp only [flagThenResult_flag s _ hx, flagByte_toNat, notBorrow, decide_eq_true_eq]

/-- Settles O18: the bit shifted out is the register's lowest or highest as a number. Where `x` is 15 the flag itself is
shifted. -/
theorem shiftsReportTheLostBit : Obligations.ShiftsReportTheLostBit := by
  refine fun s x => ⟨⟨_, exec_shr x s, fun hx => ⟨?_, ?_⟩, ?_, rfl, onlyRegs_flagThenResult s _ x _⟩,
    ⟨_, exec_shl x s, fun hx => ⟨?_, ?_⟩, ?_, rfl, onlyRegs_flagThenResult s _ x _⟩⟩
  · rw [flagThenResult_result, setFlag_reg_ne s _ hx, byte_shr_toNat]
  · rw [flagThenResult_flag s _ hx, flagByte_lowBit_toNat]
  · rintro rfl
    rw [flagThenResult_result, setFlag_reg_flag]
    cases lowBit (s.reg 15) <;> rfl
  · rw [flagThenResult_result, setFlag_reg_ne s _ hx, byte_shl_toNat]
  · rw [flagThenResult_flag s _ hx, flagByte_highBit_toNat]
  · rintro rfl
    have := flagByte_highBit_toNat (s.reg 15)
    rw [flagThenResult_result, setFlag_reg_flag, byte_shl_toNat]
    omega

/-- Settles O19: each entry is the general rule of its instruction at `x = 15`. -/
theorem flagAsDestinationTable : Obligations.FlagAsDestinationTable := by
  intro s y F b le
  obtain ⟨⟨t₁, h₁, _, hor, _⟩, ⟨t₂, h₂, _, hand, _⟩, ⟨t₃, h₃, _, hxor, _⟩⟩ :=
    bitwiseClearsTheFlag s 15 y
  obtain ⟨t₄, h₄, _, hadd, _⟩ := addReportsCarry s 15 y
  obtain ⟨⟨t₅, h₅, ⟨hsub, _⟩, _⟩, ⟨t₆, h₆, ⟨hsubn, _⟩, _⟩⟩ := subtractionsReportNoBorrow s 15 y
  obtain ⟨⟨t₇, h₇, _, hshr, _⟩, ⟨t₈, h₈, _, hshl, _⟩⟩ := shiftsReportTheLostBit s 15
  refine ⟨⟨t₁, h₁, congrArg _ hor⟩, ⟨t₂, h₂, congrArg _ hand⟩, ⟨t₃, h₃, congrArg _ hxor⟩, ⟨t₄, h₄, ?_⟩,
    ⟨t₅, h₅, ?_⟩, ⟨t₆, h₆, ?_⟩, ⟨t₇, h₇, congrArg _ (hshr rfl)⟩, ⟨t₈, h₈, hshl rfl⟩⟩
  · have := (s.reg 15).isLt
    have := (s.reg y).isLt
    rw [hadd]
    split <;> omega
  · by_cases hy : y = 15
    · simp only [hsub, hy, if_true, Nat.add_sub_cancel_left, Nat.mod_self]
    · simp only [hsub, hy, if_true, if_false]
      rfl
  · by_cases hy : y = 15
    · simp only [hsubn, hy, if_true, Nat.add_sub_cancel_left, Nat.mod_self]
    · simp only [hsubn, hy, if_true, if_false]
      rfl

/-- Settles O20: for or, and, xor and add the flag is read before it is written. For sub and subn it is the general rule at
`y = 15`. -/
theorem flagAsSecondOperandTable : Obligations.FlagAsSecondOperandTable := by
  intro s x hx F a le
  obtain ⟨⟨t₅, h₅, ⟨hsub, hsubFlag⟩, _⟩, ⟨t₆, h₆, ⟨hsubn, hsubnFlag⟩, _⟩⟩ :=
    subtractionsReportNoBorrow s x 15
  refine ⟨⟨_, exec_bitOr x 15 s, ?_, congrArg _ (resultThenFlag_advance_flag s x _ _)⟩,
    ⟨_, exec_bitAnd x 15 s, ?_, congrArg _ (resultThenFlag_advance_flag s x _ _)⟩,
    ⟨_, exec_bitXor x 15 s, ?_, congrArg _ (resultThenFlag_advance_flag s x _ _)⟩, ?_,
    ⟨t₅, h₅, hsubFlag hx, ?_⟩, ⟨t₆, h₆, hsubnFlag hx, ?_⟩⟩
  · rw [resultThenFlag_advance_result s hx, BitVec.toNat_or]
  · rw [resultThenFlag_advance_result s hx, BitVec.toNat_and]
  · rw [resultThenFlag_advance_result s hx, BitVec.toNat_xor]
  · obtain ⟨t₄, h₄, hadd, hcarry, _⟩ := addReportsCarry s x 15
    refine ⟨t₄, h₄, hadd hx, ?_⟩
    have := (s.reg x).isLt
    have := (s.reg 15).isLt
    rw [hcarry]
    split <;> omega
  · simp only [hsub, hx, if_true, if_false]
    rfl
  · simp only [hsubn, hx, if_true, if_false]
    rfl

/-! ### The random port (R141) -/

/-- Settles O21: one draw, masked by `kk`, into one register. -/
theorem randomMasksOneDraw : Obligations.RandomMasksOneDraw := by
  intro s x kk
  have hx : (effect (.random x kk) s).reg x = s.nextRandom &&& kk := setReg_advance_reg_self s.dropRandom x _
  refine ⟨_, exec_of_runs (i := .random x kk) trivial, hx, ?_, rfl, fun r hr => ?_, fun _ => rfl, rfl, rfl⟩
  · rw [hx, BitVec.and_assoc, BitVec.and_not_self]
    exact BitVec.and_zero
  · exact State.reg_setReg_ne s.dropRandom hr _

end Sys2Proof.Machine
end

section
/-! Memory accesses through `I` (42_index_memory R151, R153 to R155): the digits, the two loops, and their frames. -/

namespace Sys2Proof.Machine

/-! ### add-index -/

/-- Settles O24: addition of words is modulo 65536, and `I` is the one field written besides `pc`. -/
theorem addIndexWraps : Obligations.AddIndexWraps := fun s x =>
  ⟨_, exec_of_runs (i := .addIndex x) trivial,
    (BitVec.toNat_add s.idx _).trans (by rw [zextByte_toNat]), rfl, sameRegsAndBytes_setIdx_advance s _, rfl⟩

/-! ### store-bcd -/

theorem onlyBytes_putList {s : State} {n : Nat} {bs : List Byte} (h : bs.length = n) :
    OnlyBytes s { s with mem := s.mem.putList s.idx.toNat bs }.advance s.idx.toNat n where
  regs _ := rfl
  bytes _ ha := Memory.byte_putList_outside bs s.mem _ (h ▸ ha)
  rest := rfl

/-- Settles O25: the three digits are below 256, so each fits its byte. -/
theorem storeBcdWritesThreeDigits : Obligations.StoreBcdWritesThreeDigits := by
  refine fun s x => ⟨fun hwf hr => ?_, fun hr => exec_stops (i := .storeBcd x) hr⟩
  have hend : s.idx.toNat + 3 ≤ 4096 := by
    have := inRange_iff.mp hr
    omega
  have hdigit := fun j (hj : j < 3) => Memory.byte_putList_inside (bcdDigits (s.reg x)) s.mem s.idx.toNat j hj hend hwf
  have hlt := (s.reg x).isLt
  refine ⟨_, exec_of_runs (i := .storeBcd x) hr, ?_, ?_, ?_, rfl, onlyBytes_putList rfl⟩
  · exact (congrArg BitVec.toNat (hdigit 0 (by decide))).trans (Nat.mod_eq_of_lt (by omega))
  · exact (congrArg BitVec.toNat (hdigit 1 (by decide))).trans (Nat.mod_eq_of_lt (by omega))
  · exact (congrArg BitVec.toNat (hdigit 2 (by decide))).trans (Nat.mod_eq_of_lt (by omega))

/-! ### store-regs and load-regs -/

theorem onlyBytes_storeRange (s : State) (n : Nat) :
    OnlyBytes s { s with mem := storeRange s s.idx.toNat n }.advance s.idx.toNat n where
  regs _ := rfl
  bytes a ha := storeRange_outside s s.idx.toNat a n ha
  rest := rfl

/-- After store-regs each stored byte is its register. -/
theorem effect_storeRegs_byte {s : State} {x r : RegId} (hwf : s.mem.wf = true) (hr : InRange s (x.toNat + 1))
    (hle : r.toNat ≤ x.toNat) : (effect (.storeRegs x) s).mem.byte (s.idx.toNat + r.toNat) = s.reg r := by
  have hend := inRange_iff.mp hr
  refine (storeRange_inside s s.idx.toNat hwf (x.toNat + 1) r.toNat (by omega) (by omega)).trans ?_
  rw [BitVec.ofNat_toNat, BitVec.setWidth_eq]

/-- After load-regs each loaded register is its byte, and the others are as before. -/
theorem effect_loadRegs_reg (s : State) (x r : RegId) : (effect (.loadRegs x) s).reg r =
    if r.toNat ≤ x.toNat then s.mem.byte (s.idx.toNat + r.toNat) else s.reg r := by
  have := x.isLt
  refine (loadRange_reg s s.idx.toNat r (x.toNat + 1) (by omega)).trans ?_
  simp only [Nat.lt_succ_iff]

/-- Settles O26: the loop writes each register once, from `I` upward. -/
theorem storeRegsCopiesOut : Obligations.StoreRegsCopiesOut := fun s x =>
  ⟨fun hwf hr => ⟨_, exec_of_runs (i := .storeRegs x) hr, fun _ => effect_storeRegs_byte hwf hr, rfl,
    onlyBytes_storeRange s _⟩, fun hr => exec_stops (i := .storeRegs x) hr⟩

/-- Settles O27: the loop writes the registers up to `x` and reads bytes that it does not change. -/
theorem loadRegsCopiesIn : Obligations.LoadRegsCopiesIn := fun s x =>
  ⟨fun hr => ⟨_, exec_of_runs (i := .loadRegs x) hr, effect_loadRegs_reg s x, fun _ => rfl, rfl, rfl⟩,
    fun hr => exec_stops (i := .loadRegs x) hr⟩

/-- Settles O28: load-regs reads the addresses that store-regs wrote, since neither changes `I`. -/
theorem storeThenLoadRestores : Obligations.StoreThenLoadRestores := by
  refine fun s x hwf hr => ⟨_, exec_of_runs (i := .storeRegs x) hr, fun u hmem hidx => ?_⟩
  have hidx' : u.idx = s.idx := hidx
  have hru : InRange u (x.toNat + 1) := by rwa [InRange, hidx']
  refine ⟨_, exec_of_runs (i := .loadRegs x) hru, fun r hle => ?_⟩
  rw [effect_loadRegs_reg, if_pos hle, hmem, hidx', effect_storeRegs_byte hwf hr hle]

/-- Settles O29: the fetch after the store reads the two bytes at `I`, which are `V[0]` and `V[1]`. -/
theorem storedRegistersAreFetchedNext : Obligations.StoredRegistersAreFetchedNext := by
  refine fun s x hwf hr hx hidx => ⟨_, exec_of_runs (i := .storeRegs x) hr, ?_⟩
  have hpc : (effect (.storeRegs x) s).pc = s.idx := hidx.symm
  have hend := inRange_iff.mp hr
  have h0 := effect_storeRegs_byte (r := 0) hwf hr (Nat.zero_le _)
  have h1 := effect_storeRegs_byte (r := 1) hwf hr hx
  rw [State.fetchWord_eq_some (by rw [hpc]; omega), hpc]
  exact congrArg₂ (fun hi lo => some (hi ++ lo)) h0 h1

end Sys2Proof.Machine
end

section
/-! draw (43_display R170, R171): its effect on every pixel and on the collision flag, in terms of the covered pixels. -/

namespace Sys2Proof.Machine

/-! ### The drawn frame -/

theorem originY_add_rowsOf_le (s : State) (y : RegId) (n : Nibble) : originY s y + rowsOf s y n ≤ 32 :=
  visibleRows_le n.toNat _ (Nat.mod_lt _ (by decide))

theorem drawn_pixel_of_covers {x y : RegId} {n : Nibble} {s : State} {px py : Nat} (hx : px < 64)
    (hc : DrawCovers s x y n px py) : Frame.pixel (drawn x y n s).1 px py = !Frame.pixel s.fb px py := by
  rw [drawn, plotRows_pixel _ _ hx _ _ (originY_add_rowsOf_le s y n), (spriteCovers_iff _ _ _ _ _ _ _).mp hc,
    Bool.xor_true]

theorem drawn_pixel_of_not_covers {x y : RegId} {n : Nibble} {s : State} {px py : Nat} (hx : px < 64)
    (hc : ¬ DrawCovers s x y n px py) : Frame.pixel (drawn x y n s).1 px py = Frame.pixel s.fb px py := by
  rw [drawn, plotRows_pixel _ _ hx _ _ (originY_add_rowsOf_le s y n),
    Bool.eq_false_of_not_eq_true (mt (spriteCovers_iff _ _ _ _ _ _ _).mpr hc), Bool.xor_false]

/-- A pixel on the screen that the sprite covers and that is 1 (R171). -/
def Collides (x y : RegId) (n : Nibble) (s : State) : Prop :=
  ∃ px py, px < 64 ∧ DrawCovers s x y n px py ∧ Frame.pixel s.fb px py = true

theorem drawn_flag (x y : RegId) (n : Nibble) (s : State) : (drawn x y n s).2 = true ↔ Collides x y n s := by
  rw [drawn, plotRows_flag _ _ _ _ (originY_add_rowsOf_le s y n)]
  constructor
  · rintro (h | ⟨i, j, hi, hj, hx, hb, hp⟩)
    · cases h
    · exact ⟨_, _, by omega, ⟨i, j, hi, hj, rfl, rfl, hb⟩, hp⟩
  · rintro ⟨_, _, hx, ⟨i, j, hi, hj, rfl, rfl, hb⟩, hp⟩
    exact .inr ⟨i, j, hi, hj, by omega, hb, hp⟩

/-! ### The state after draw -/

theorem effect_draw_fb (x y : RegId) (n : Nibble) (s : State) : (effect (.draw x y n) s).fb = (drawn x y n s).1 := rfl

theorem effect_draw_flag (x y : RegId) (n : Nibble) (s : State) :
    (effect (.draw x y n) s).reg 15 = flagByte (drawn x y n s).2 :=
  setReg_advance_reg_self { s with fb := (drawn x y n s).1 } flagReg _

theorem flagByte_eq_one (f : Bool) : flagByte f = 1 ↔ f = true := by cases f <;> decide
theorem flagByte_eq_zero (f : Bool) : flagByte f = 0 ↔ f = false := by cases f <;> decide

theorem effect_draw_flag_eq_one (x y : RegId) (n : Nibble) (s : State) :
    (effect (.draw x y n) s).reg 15 = 1 ↔ Collides x y n s := by
  rw [effect_draw_flag, flagByte_eq_one, drawn_flag]

theorem effect_draw_flag_eq_zero (x y : RegId) (n : Nibble) (s : State) :
    (effect (.draw x y n) s).reg 15 = 0 ↔ ¬ Collides x y n s := by
  rw [effect_draw_flag, flagByte_eq_zero, ← drawn_flag, Bool.not_eq_true]

/-! ### The obligations -/

/-- Settles O31: each covered pixel is flipped once, and the flag says whether one of them was 1. -/
theorem drawXorsTheVisibleSprite : Obligations.DrawXorsTheVisibleSprite := by
  refine fun s x y n => ⟨fun hr => ?_, fun hr => exec_stops (i := .draw x y n) hr⟩
  refine ⟨_, exec_of_runs (i := .draw x y n) hr, fun px py hx _ => ⟨fun hc => ?_, fun hc => ?_⟩,
    (effect_draw_flag_eq_one x y n s).mpr, (effect_draw_flag_eq_zero x y n s).mpr, fun r hr => ?_, fun _ => rfl, rfl, rfl⟩
  · rw [effect_draw_fb, drawn_pixel_of_covers hx hc]
  · rw [effect_draw_fb, drawn_pixel_of_not_covers hx hc]
  · exact State.reg_setReg_ne { s with fb := (drawn x y n s).1 } (r := flagReg) hr _

/-- Settles O32: the second draw covers the same pixels, so it flips each of them back. One of them is 1 before it exactly when it
was 0 before the first. -/
theorem drawTwiceRestoresTheFrame : Obligations.DrawTwiceRestoresTheFrame := by
  intro s t x y n hr ht hox hoy
  rw [exec_of_runs (i := .draw x y n) hr] at ht
  cases ht
  set t := effect (.draw x y n) s
  have hrows : rowsOf t y n = rowsOf s y n := by rw [rowsOf, hoy, rowsOf]
  have hcov : ∀ px py, DrawCovers t x y n px py ↔ DrawCovers s x y n px py := by
    intro px py
    rw [DrawCovers, hox, hoy, hrows]
    rfl
  have hrt : Runs (.draw x y n) t := by
    show InRange t (rowsOf t y n)
    rw [hrows]
    exact hr
  refine ⟨_, exec_of_runs hrt, Frame.ext_pixel fun px py hx _ => ?_, ?_, ?_⟩
  · by_cases hc : DrawCovers s x y n px py
    · rw [effect_draw_fb, drawn_pixel_of_covers hx ((hcov px py).mpr hc), effect_draw_fb, drawn_pixel_of_covers hx hc,
        Bool.not_not]
    · rw [effect_draw_fb, drawn_pixel_of_not_covers hx (mt (hcov px py).mp hc), effect_draw_fb,
        drawn_pixel_of_not_covers hx hc]
  · rw [effect_draw_flag_eq_one]
    refine exists₂_congr fun px py => and_congr_right fun hx => ?_
    rw [hcov]
    refine and_congr_right fun hc => ?_
    rw [effect_draw_fb, drawn_pixel_of_covers hx hc, Bool.not_eq_true']
  · rw [effect_draw_flag_eq_one, effect_draw_flag_eq_zero]
    exact Classical.em _

/-- Settles O33: on a blank frame no pixel is 1, so none collides. -/
theorem noCollisionAfterClear : Obligations.NoCollisionAfterClear := by
  refine fun s x y n hr => ⟨_, _, exec_clearScreen s, exec_of_runs (i := .draw x y n) hr, ?_⟩
  rw [effect_draw_flag_eq_zero]
  rintro ⟨px, py, _, _, hp⟩
  exact Bool.false_ne_true ((Frame.pixel_blank px py).symm.trans hp)

end Sys2Proof.Machine
end

section
/-! The Keypad Input Adapter (60_exceptions R220 to R223, 44_keypad_timers R180 to R183): one decaying read, a run of empty
polls, and the three key instructions. -/

namespace Sys2Proof.Machine

/-! ### The decaying read -/

theorem decayed_event (p : Params) (key : Option Key) (polls : Nat) (sym : HostSymbol) :
    decayed p key polls (some sym) = (p.keymap.lookup sym, 0) := rfl

theorem decayed_empty_below {p : Params} {polls : Nat} (h : polls + 1 < p.keyDecayPolls) (key : Option Key) :
    decayed p key polls none = (key, polls + 1) :=
  if_neg (Nat.not_le.mpr h)

theorem decayed_empty_last {p : Params} {polls : Nat} (h : p.keyDecayPolls ≤ polls + 1) (key : Option Key) :
    decayed p key polls none = (none, 0) :=
  if_pos h

/-- Settles O34: the three cases of the answer, and one poll in each. -/
theorem decayingReadFollowsItsProcedure : Obligations.DecayingReadFollowsItsProcedure := by
  refine fun s => ⟨fun sym hk => ?_, fun hk h => ?_, fun hk h => ?_, rfl⟩
  · rw [State.keyDecayRead_lastKey, State.keyDecayRead_pollsSinceSeen, hk, decayed_event]
    exact ⟨rfl, rfl⟩
  · rw [State.keyDecayRead_lastKey, State.keyDecayRead_pollsSinceSeen, hk, decayed_empty_below h]
    exact ⟨rfl, rfl⟩
  · rw [State.keyDecayRead_lastKey, State.keyDecayRead_pollsSinceSeen, hk, decayed_empty_last h]
    exact ⟨rfl, rfl⟩

/-! ### A run of empty polls -/

theorem nextKey_of_keys {s : State} {e : Option HostSymbol} {rest : List (Option HostSymbol)}
    (h : s.inputs.keys = e :: rest) : s.nextKey = e := by
  rw [State.nextKey, Inputs.nextKey, h]

theorem keyDecayRead_keys {s : State} {e : Option HostSymbol} {rest : List (Option HostSymbol)}
    (h : s.inputs.keys = e :: rest) : s.keyDecayRead.inputs.keys = rest := by
  rw [State.keyDecayRead_inputs, Inputs.dropKey, h]

/-- Empty polls that do not reach the limit keep the stored key. -/
theorem lastKey_iterate_of_lt {rest : List (Option HostSymbol)} : ∀ (m : Nat) (s : State),
    s.inputs.keys = List.replicate m none ++ rest → s.pollsSinceSeen + m < s.params.keyDecayPolls →
    (State.keyDecayRead^[m] s).lastKey = s.lastKey
  | 0, _, _, _ => rfl
  | m + 1, s, hkeys, hlt => by
    obtain ⟨_, hempty, _, _⟩ := decayingReadFollowsItsProcedure s
    obtain ⟨hkey, hpolls⟩ := hempty (nextKey_of_keys hkeys) (by omega)
    rw [Function.iterate_succ_apply, lastKey_iterate_of_lt m s.keyDecayRead (keyDecayRead_keys hkeys)
      (by rw [hpolls, State.keyDecayRead_params]; omega), hkey]

/-- The empty poll that reaches the limit clears the stored key and the counter. -/
theorem cleared_iterate_of_eq {rest : List (Option HostSymbol)} : ∀ (m : Nat) (s : State),
    s.inputs.keys = List.replicate (m + 1) none ++ rest → s.pollsSinceSeen + (m + 1) = s.params.keyDecayPolls →
    (State.keyDecayRead^[m + 1] s).lastKey = none ∧ (State.keyDecayRead^[m + 1] s).pollsSinceSeen = 0
  | 0, s, hkeys, heq => by
    obtain ⟨_, _, hlast, _⟩ := decayingReadFollowsItsProcedure s
    exact hlast (nextKey_of_keys hkeys) heq.ge
  | m + 1, s, hkeys, heq => by
    obtain ⟨_, hempty, _, _⟩ := decayingReadFollowsItsProcedure s
    obtain ⟨_, hpolls⟩ := hempty (nextKey_of_keys hkeys) (by omega)
    rw [Function.iterate_succ_apply]
    exact cleared_iterate_of_eq m s.keyDecayRead (keyDecayRead_keys hkeys)
      (by rw [hpolls, State.keyDecayRead_params]; omega)

/-- Settles O35: the event stores its key and zeroes the counter, and what follows is a run of empty polls from there. -/
theorem keyIsReportedUntilItDecays : Obligations.KeyIsReportedUntilItDecays := by
  intro s sym m rest hpos hkeys
  obtain ⟨hevent, _, _, _⟩ := decayingReadFollowsItsProcedure s
  obtain ⟨hkey, hpolls⟩ := hevent sym (nextKey_of_keys hkeys)
  have hrest := keyDecayRead_keys hkeys
  rw [Function.iterate_succ_apply]
  refine ⟨fun hm => ?_, fun hm => ?_⟩
  · rw [lastKey_iterate_of_lt m s.keyDecayRead hrest (by rw [hpolls, State.keyDecayRead_params]; omega), hkey]
  · obtain ⟨k, rfl⟩ := Nat.exists_eq_succ_of_ne_zero (show m ≠ 0 by omega)
    exact cleared_iterate_of_eq k s.keyDecayRead hrest (by rw [hpolls, State.keyDecayRead_params]; omega)

/-! ### The key instructions -/

theorem zextKey_toNat (k : Key) : (zextKey k).toNat = k.toNat := BitVec.toNat_setWidth_of_le (by decide)

theorem keyEquals_iff (key : Option Key) (b : Byte) :
    keyEquals key b = true ↔ ∃ k, key = some k ∧ k.toNat = b.toNat := by
  cases key with
  | none => simp [keyEquals]
  | some k =>
    rw [keyEquals, beq_iff_eq, ← BitVec.toNat_inj, zextKey_toNat]
    exact ⟨fun h => ⟨k, rfl, h⟩, fun ⟨_, hk, h⟩ => Option.some.inj hk ▸ h⟩

/-- Settles O36: both skips are `skipIf` after the same read, on a condition and on its complement. -/
theorem keySkipsAreComplements : Obligations.KeySkipsAreComplements := by
  intro s x
  have hit : KeyHits s x → keyEquals s.keyDecayRead.lastKey (s.reg x) = true := (keyEquals_iff _ _).mpr
  have miss : ¬ KeyHits s x → keyEquals s.keyDecayRead.lastKey (s.reg x) = false :=
    fun h => Bool.eq_false_of_not_eq_true (mt (keyEquals_iff _ _).mp h)
  refine ⟨⟨_, exec_of_runs (i := .skipIfKey x) trivial, fun h => ?_, fun h => ?_, ⟨fun _ => rfl, fun _ => rfl⟩, rfl⟩,
    ⟨_, exec_of_runs (i := .skipIfNotKey x) trivial, fun h => ?_, fun h => ?_, ⟨fun _ => rfl, fun _ => rfl⟩, rfl⟩, rfl⟩
  · rw [effect, hit h]; rfl
  · rw [effect, miss h]; rfl
  · rw [effect, hit h]; rfl
  · rw [effect, miss h]; rfl

/-- Settles O37: with a key, wait-key is a register write and an advance after the poll. Without one it is the poll alone. -/
theorem waitKeyTakesAKeyOrStays : Obligations.WaitKeyTakesAKeyOrStays := by
  have hexec : ∀ (s : State) (x : RegId), exec (.waitKey x) s = .next (s.dropKey.acceptKey x s.keyBlockRead) :=
    fun s x => exec_of_runs (i := .waitKey x) trivial
  refine fun s x => ⟨fun sym k hk hmap => ?_, fun h => ?_⟩
  · have hread : s.keyBlockRead = some k := by rw [State.keyBlockRead, hk]; exact hmap
    refine ⟨(s.dropKey.setReg x (zextKey k)).advance, by rw [hexec, hread, State.acceptKey_some], ?_,
      rfl, fun r hr => ?_, fun _ => rfl, rfl⟩
    · rw [setReg_advance_reg_self, zextKey_toNat]
    · exact State.reg_setReg_ne s.dropKey hr _
  · have hread : s.keyBlockRead = none := by
      rw [State.keyBlockRead]
      rcases h with hk | ⟨sym, hk, hmap⟩
      · rw [hk]
      · rw [hk]; exact hmap
    rw [hexec, hread, State.acceptKey_none]
    rfl

end Sys2Proof.Machine
end

section
/-! The timer tick (60_exceptions R214): how the two timers count down. -/

namespace Sys2Proof.Machine

theorem countDown_toNat (b : Byte) : (countDown b).toNat = b.toNat - 1 := by
  rw [countDown]
  split
  · rename_i h
    rw [h]
    rfl
  · rename_i h
    have hpos : 1 ≤ b.toNat := Nat.one_le_iff_ne_zero.mpr fun e => h (BitVec.eq_of_toNat_eq e)
    exact BitVec.toNat_sub_of_le (BitVec.le_def.mpr (show (1 : Byte).toNat ≤ _ from hpos))

theorem timerTick_tone_iff (s : State) : s.timerTick.tone = true ↔ s.st.toNat ≠ 0 := by
  rw [State.timerTick_tone, decide_eq_true_iff, ne_eq, ne_eq, ← BitVec.toNat_inj]
  rfl

/-- Settles O39: each timer by `countDown`, the tone from the sound timer before it. -/
theorem timerTickCountsDown : Obligations.TimerTickCountsDown := fun s =>
  ⟨countDown_toNat s.st, countDown_toNat s.dt, rfl, timerTick_tone_iff s, rfl⟩

theorem timers_iterate_timerTick (s : State) : ∀ n,
    (State.timerTick^[n] s).dt.toNat = s.dt.toNat - n ∧ (State.timerTick^[n] s).st.toNat = s.st.toNat - n
  | 0 => ⟨rfl, rfl⟩
  | n + 1 => by
    obtain ⟨hdt, hst⟩ := timers_iterate_timerTick s n
    rw [Function.iterate_succ_apply', State.timerTick_dt, State.timerTick_st, countDown_toNat, countDown_toNat, hdt, hst]
    exact ⟨Nat.sub_sub _ _ _, Nat.sub_sub _ _ _⟩

/-- Settles O40: the tick `n + 1` sounds exactly where `n` ticks have not brought the sound timer to 0. -/
theorem ticksNeverUnderflow : Obligations.TicksNeverUnderflow := by
  intro s n
  obtain ⟨hdt, hst⟩ := timers_iterate_timerTick s n
  refine ⟨hdt, hst, ?_⟩
  rw [Function.iterate_succ_apply', timerTick_tone_iff, hst]
  exact Nat.sub_ne_zero_iff_lt

end Sys2Proof.Machine
end

section
/-! The Instruction Cycle and the poll iteration (30_encoding R80, R81; 60_exceptions R203, R212, R240): each case of what they
answer. -/

namespace Sys2Proof.Machine

/-! ### Fetch -/

/-- Settles O41: the byte at the lower address is the high byte of the word. -/
theorem fetchIsBigEndian : Obligations.FetchIsBigEndian := fun _ h =>
  ⟨_, State.fetchWord_eq_some h, toNat_append _ _⟩

/-- Settles O42: the second byte is always out of range here, and the first unless `pc` is 4095. -/
theorem fetchOutOfRangeIsFatal : Obligations.FetchOutOfRangeIsFatal := by
  intro s hpc
  have hw := State.fetchWord_eq_none hpc
  have hinfo : (if s.pc.toNat = 4095 then 4096 else s.pc.toNat) = max s.pc.toNat 4096 := by
    split <;> omega
  have h : instructionStep s = s.raise .memoryOutOfRange (max s.pc.toNat 4096) := by rw [instructionStep, hw]
  refine ⟨_, h, hw, ?_⟩
  rw [hinfo]
  exact stoppedBy_fatalStop s _ _

/-- Settles O43: the fetched word matches no row, so the cycle raises it. -/
theorem unrecognizedWordIsFatal : Obligations.UnrecognizedWordIsFatal := by
  intro s w hw hd
  have h : instructionStep s = s.raise .unrecognizedOpcode w.toNat := by simp only [instructionStep, hw, hd]
  exact ⟨_, h, stoppedBy_fatalStop s _ _⟩

/-! ### The Instruction Cycle -/

theorem instructionStep_of_decode {s : State} {i : Instr} (hpc : s.pc.toNat ≤ 4094)
    (hd : decodeWord (s.mem.byte s.pc.toNat ++ s.mem.byte (s.pc.toNat + 1)) = some i) : instructionStep s = exec i s := by
  simp only [instructionStep, State.fetchWord_eq_some hpc, hd]

/-- One Instruction Cycle is a fatal stop, or the effect of an instruction that runs. -/
theorem instructionStep_answers (s : State) : (∃ r, instructionStep s = .next (s.fatalStop r)) ∨
    ∃ i, s.pc.toNat ≤ 4094 ∧ Runs i s ∧ instructionStep s = .next (effect i s) := by
  rcases instructionStep_cases s with ⟨_, h⟩ | ⟨_, w, _, _, h⟩ | ⟨hpc, w, i, _, _, h⟩
  · exact .inl ⟨_, h⟩
  · exact .inl ⟨_, h⟩
  · by_cases hr : Runs i s
    · exact .inr ⟨i, hpc, hr, h.trans (exec_of_runs hr)⟩
    · exact .inl ⟨_, h.trans (exec_of_not_runs hr)⟩

/-! ### The triggers -/

theorem fires_iff (now last : Int) (period : Nat) : fires now last period = true ↔ Fires now last period := by
  rw [fires, Bool.or_eq_true, decide_eq_true_iff, decide_eq_true_iff, Fires]

theorem countDown_eq_sub (b : Byte) : countDown b = b - (if b = 0 then 0 else 1) := by
  rw [countDown]
  split
  · rename_i h
    rw [h]
    rfl
  · rfl

theorem timerPart_timerStage (now : Int) (s : State) : TimerPart now s (s.timerStage now) := by
  rw [TimerPart, ← fires_iff, ← countDown_eq_sub, ← countDown_eq_sub]
  rcases s.timerStage_cases now with ⟨hf, h⟩ | ⟨hf, h⟩
  · exact ⟨fun _ => h, fun hn => absurd hf hn⟩
  · exact ⟨fun he => by simp [he] at hf, fun _ => h⟩

/-! ### The poll iteration -/

theorem pollIteration_halted {s : State} (h : s.halted = true) (terminate : Bool) (now : Int) :
    pollIteration terminate now s = .next s := if_pos h

theorem pollIteration_terminate {s : State} (h : s.halted = false) (now : Int) :
    pollIteration true now s = .next s.hostTerminate := by
  simp [pollIteration, h]

theorem pollIteration_fires {s : State} {now : Int} (h : s.halted = false)
    (hf : Fires now s.lastInstr s.params.instrPeriod) :
    pollIteration false now s = afterInstruction now (instructionStep (s.markInstr now)) := by
  simp [pollIteration, h, (fires_iff _ _ _).mpr hf]

theorem pollIteration_quiet {s : State} {now : Int} (h : s.halted = false)
    (hf : ¬ Fires now s.lastInstr s.params.instrPeriod) : pollIteration false now s = .next (s.timerStage now) := by
  simp [pollIteration, h, mt (fires_iff _ _ _).mp hf]

/-- After an instruction step the timer part follows, unless CORE has stopped (R203). -/
theorem afterInstruction_answers (now : Int) (t : State) : ∃ u, afterInstruction now (.next t) = .next u ∧
    (t.halted = true → u = t) ∧ (t.halted = false → TimerPart now t u) := by
  refine ⟨_, rfl, fun h => if_pos h, fun h => ?_⟩
  rw [if_neg (Bool.not_eq_true _ ▸ h)]
  exact timerPart_timerStage now t

/-- Settles O45: the four cases are the four branches, and an Instruction Cycle always answers a next state. -/
theorem pollIterationCases : Obligations.PollIterationCases := by
  refine fun terminate now s => ⟨fun h => pollIteration_halted h _ _, ?_, ?_, ?_⟩
  · rintro h rfl
    exact pollIteration_terminate h now
  · rintro h rfl hf
    have hcycle : ∃ t, instructionStep (s.markInstr now) = .next t := by
      rcases instructionStep_answers (s.markInstr now) with ⟨r, ht⟩ | ⟨i, _, _, ht⟩
      · exact ⟨_, ht⟩
      · exact ⟨_, ht⟩
    obtain ⟨t, ht⟩ := hcycle
    obtain ⟨u, hu, hcases⟩ := afterInstruction_answers now t
    exact ⟨t, u, ht, by rw [pollIteration_fires h hf, ht, hu], hcases⟩
  · rintro h rfl hf
    exact ⟨_, pollIteration_quiet h hf, timerPart_timerStage now s⟩

/-! ### The step -/

theorem step_halted {s : State} (h : s.halted = true) : step s = .next s := if_pos h

theorem step_running {s : State} (h : s.halted = false) :
    step s = pollIteration s.nextSample.terminate s.now s.dropSample := by
  simp [step, pollPorts, h, State.now]

/-- Settles O44: the step is the poll iteration with the trigger firing, whose Instruction Cycle is the decoded instruction. -/
theorem stepRunsTheDecodedInstruction : Obligations.StepRunsTheDecodedInstruction := by
  intro s t i rest now hrun hterm hf hpc hdec _ hexec
  have hd : decodeWord (s.mem.byte s.pc.toNat ++ s.mem.byte (s.pc.toNat + 1)) = some i := by
    rw [decode] at hdec
    split at hdec
    · cases hdec
      assumption
    · cases hdec
  have hcycle : instructionStep s.atTrigger = .next t := (instructionStep_of_decode (s := s.atTrigger) hpc hd).trans hexec
  have hstep : step s = afterInstruction now (.next t) := by
    rw [step_running hrun, hterm, ← hcycle]
    exact pollIteration_fires (s := s.dropSample) hrun hf
  obtain ⟨u, hu, hhalt, htimer⟩ := afterInstruction_answers now t
  rw [hstep, hu]
  exact ⟨fun h => by rw [hhalt h], fun h => ⟨u, rfl, htimer h⟩⟩

/-- Settles O46: a step of a halted CORE answers the same state. -/
theorem haltIsForEver : Obligations.HaltIsForEver := by
  intro s n h
  induction n with
  | zero => rfl
  | succ n ih =>
    have hstep : core.step s = .next s := step_halted h
    simp only [Host.Core.run, hstep]
    exact ih

/-- Settles O47: each of the four cases of the poll iteration answers a next state. -/
theorem stepAlwaysAnswers : Obligations.StepAlwaysAnswers := by
  intro s
  cases hh : s.halted with
  | true => exact ⟨s, step_halted hh⟩
  | false =>
    rw [step_running hh]
    obtain ⟨_, _, hfires, hquiet⟩ := pollIterationCases s.nextSample.terminate s.now s.dropSample
    cases ht : s.nextSample.terminate with
    | true => exact ⟨_, pollIteration_terminate (s := s.dropSample) hh s.now⟩
    | false =>
      rw [ht] at hfires hquiet
      by_cases hf : Fires s.now s.dropSample.lastInstr s.dropSample.params.instrPeriod
      · obtain ⟨t, u, _, hu, _⟩ := hfires hh rfl hf
        exact ⟨u, hu⟩
      · obtain ⟨u, hu, _⟩ := hquiet hh rfl hf
        exact ⟨u, hu⟩

theorem timerStage_fatal (now : Int) (s : State) : (s.timerStage now).fatal = s.fatal := by rw [State.timerStage_frame]

theorem FatalKind.code_ne_zero (k : FatalKind) : k.code ≠ 0 := by cases k <;> decide

/-- Settles O49: of the four cases only a fatal stop of the Instruction Cycle writes `fatal`, and after it no timer part
follows. -/
theorem fatalStepIsPrecise : Obligations.FatalStepIsPrecise := by
  intro s t hst hrun hnone hfatal
  rcases step_cases hst with ⟨hh, _⟩ | ⟨_, _, rfl⟩ | ⟨_, _, _, u, hu, rfl⟩ | ⟨_, _, _, rfl⟩
  · simp [hrun] at hh
  · exact absurd hnone hfatal
  · rcases instructionStep_answers s.atTrigger with ⟨r, hr⟩ | ⟨i, _, _, hi⟩
    · rw [hr] at hu
      cases hu
      exact ⟨⟨_, rfl, FatalKind.code_ne_zero _⟩, rfl⟩
    · rw [hi] at hu
      cases hu
      have hh : (effect i s.atTrigger).halted = false := (effect_halted i s.atTrigger).trans hrun
      rw [hh, if_neg Bool.false_ne_true, timerStage_fatal, effect_fatal] at hfatal
      exact absurd hnone hfatal
  · rw [timerStage_fatal] at hfatal
    exact absurd hnone hfatal

end Sys2Proof.Machine
end

section
/-! What every instruction leaves unchanged (10_state), and the invariants that every step keeps: each from the effect of an
instruction that runs and from the writes of the main loop. -/

namespace Sys2Proof.Machine

/-! ### The frame of the effects -/

section
variable (i : Instr) (s : State)

@[simp] theorem effect_lastInstr : (effect i s).lastInstr = s.lastInstr := by cases i <;> rfl
@[simp] theorem effect_lastTimer : (effect i s).lastTimer = s.lastTimer := by cases i <;> rfl
@[simp] theorem effect_shown : (effect i s).shown = s.shown := by cases i <;> rfl
@[simp] theorem effect_tone : (effect i s).tone = s.tone := by cases i <;> rfl
@[simp] theorem effect_params : (effect i s).params = s.params := by cases i <;> rfl

theorem effect_idx : i.op ∈ [Op.setIndex, .addIndex, .fontAddress] ∨ (effect i s).idx = s.idx := by
  cases i <;> simp [effect, Instr.op]

theorem effect_sp : i.op ∈ [Op.call, .ret] ∨ (effect i s).sp = s.sp := by
  cases i <;> simp [effect, Instr.op]

theorem effect_stack : i.op = .call ∨ (effect i s).stack = s.stack := by
  cases i <;> simp [effect, Instr.op]

theorem effect_dt : i.op = .setDelay ∨ (effect i s).dt = s.dt := by
  cases i <;> simp [effect, Instr.op]

theorem effect_st : i.op = .setSound ∨ (effect i s).st = s.st := by
  cases i <;> simp [effect, Instr.op]

theorem effect_fb : i.op ∈ [Op.clearScreen, .draw] ∨ (effect i s).fb = s.fb := by
  cases i <;> simp [effect, Instr.op]

theorem effect_mem : i.op ∈ [Op.storeBcd, .storeRegs] ∨ (effect i s).mem = s.mem := by
  cases i <;> simp [effect, Instr.op]

theorem effect_adapter : i.op ∈ [Op.skipIfKey, .skipIfNotKey] ∨
    ((effect i s).lastKey = s.lastKey ∧ (effect i s).pollsSinceSeen = s.pollsSinceSeen) := by
  cases i <;> simp [effect, Instr.op]

theorem effect_inputs : i.op ∈ [Op.random, .skipIfKey, .skipIfNotKey, .waitKey] ∨ (effect i s).inputs = s.inputs := by
  cases i <;> simp [effect, Instr.op]

end

/-- A register that the instruction neither names as destination nor writes as the flag keeps its value (R22). -/
theorem effect_reg {i : Instr} {r : RegId} (hnot : ¬ namesRegister i r) (hflag : ¬ (r = 15 ∧ i.op ∈ flagWriters))
    (s : State) : (effect i s).reg r = s.reg r := by
  have hne : i.op ∈ flagWriters → r ≠ flagReg := fun hw e => hflag ⟨e, hw⟩
  cases i
  case loadImm | addImm | move | random | getDelay => exact State.reg_setReg_ne _ hnot _
  case bitOr | bitAnd | bitXor | add =>
    exact (State.reg_setReg_ne _ (hne (by simp [Instr.op, flagWriters])) _).trans (State.reg_setReg_ne s hnot _)
  case sub | subn | shr | shl =>
    exact (State.reg_setReg_ne _ hnot _).trans (State.reg_setReg_ne s (hne (by simp [Instr.op, flagWriters])) _)
  case draw => exact State.reg_setReg_ne _ (hne (by simp [Instr.op, flagWriters])) _
  case loadRegs x => exact (effect_loadRegs_reg s x r).trans (if_neg hnot)
  case waitKey x =>
    rw [effect]
    cases s.keyBlockRead with
    | none => rfl
    | some k => exact State.reg_setReg_ne s.dropKey hnot _
  all_goals rfl

/-! ### The obligations about every instruction -/

/-- Settles O22: a fatal stop writes no register, and the effect only the named ones and the flag. -/
theorem onlyNamedRegistersChange : Obligations.OnlyNamedRegistersChange := by
  intro i s t h r hne
  rcases exec_cases h with ⟨_, rfl⟩ | ⟨_, rfl⟩
  · by_contra hnot
    obtain ⟨hname, hflag⟩ := not_or.mp hnot
    exact hne (effect_reg hname hflag s)
  · exact absurd (State.fatalStop_reg s _ r) hne

/-- Settles O50: a fatal stop writes none of these fields, and the effect each only where the instruction is in its list. -/
theorem onlyTheListedWriters : Obligations.OnlyTheListedWriters := by
  intro i s t h
  rcases exec_cases h with ⟨_, rfl⟩ | ⟨_, rfl⟩
  · refine ⟨(effect_idx i s).resolve_right, (effect_sp i s).resolve_right, (effect_stack i s).resolve_right,
      (effect_dt i s).resolve_right, (effect_st i s).resolve_right, (effect_fb i s).resolve_right,
      fun ⟨a, ha⟩ => (effect_mem i s).resolve_right fun e => ha (by rw [e]),
      fun hk => (effect_adapter i s).resolve_right fun ⟨e1, e2⟩ => hk.elim (absurd e1) (absurd e2),
      (effect_inputs i s).resolve_right, effect_lastInstr i s, effect_lastTimer i s, effect_shown i s, effect_tone i s⟩
  · simp

/-! ### Invariants of a step -/

/-- `P` is kept by everything a step is made of: the writes of the main loop and the timer tick, host termination and a fatal
stop of a running CORE, and an instruction that runs. -/
structure StepInvariant (P : State → Prop) : Prop where
  loop      : ∀ (s : State) (inputs : Inputs) (lastInstr lastTimer : Int) (st dt : Byte) (shown : Option Frame) (tone : Bool),
    P s → P { s with inputs := inputs, lastInstr := lastInstr, lastTimer := lastTimer, st := st, dt := dt,
                     shown := shown, tone := tone }
  terminate : ∀ s, s.halted = false → P s → P s.hostTerminate
  stop      : ∀ s r, s.halted = false → P s → P (s.fatalStop r)
  run       : ∀ s i, s.pc.toNat ≤ 4094 → Runs i s → P s → P (effect i s)

theorem StepInvariant.timerStage {P : State → Prop} (h : StepInvariant P) {s : State} (hs : P s) (now : Int) :
    P (s.timerStage now) := by
  rw [State.timerStage_frame]
  exact h.loop s s.inputs s.lastInstr _ _ _ _ _ hs

/-- An invariant holds after a step. -/
theorem StepInvariant.step {P : State → Prop} (h : StepInvariant P) {s t : State} (hst : StepsTo s t) (hs : P s) : P t := by
  have hdrop : P s.dropSample := h.loop s _ _ _ _ _ _ _ hs
  rcases step_cases hst with ⟨_, rfl⟩ | ⟨hh, _, rfl⟩ | ⟨hh, _, _, u, hu, rfl⟩ | ⟨_, _, _, rfl⟩
  · exact hs
  · exact h.terminate _ hh hdrop
  · have hmark : P s.atTrigger := h.loop s _ _ _ _ _ _ _ hs
    have hcycle : P u := by
      rcases instructionStep_answers s.atTrigger with ⟨r, hr⟩ | ⟨i, hpc, hruns, hi⟩
      · rw [hr] at hu
        cases hu
        exact h.stop _ r hh hmark
      · rw [hi] at hu
        cases hu
        exact h.run _ i hpc hruns hmark
    split
    · exact hcycle
    · exact h.timerStage hcycle _
  · exact h.timerStage hdrop _

/-- Settles O51: nothing a step is made of writes the parameters. -/
theorem stepKeepsParameters : Obligations.StepKeepsParameters := by
  intro s t hst
  have h : StepInvariant fun u => u.params = s.params :=
    { loop := fun _ _ _ _ _ _ _ _ hu => hu
      terminate := fun _ _ hu => hu
      stop := fun _ _ _ hu => hu
      run := fun u i _ _ hu => (effect_params i u).trans hu }
  exact h.step hst rfl

/-- The one write of the stack is at `sp + 1`, and call runs only where that is not 0 (R25). -/
theorem effect_slot_zero {i : Instr} {s : State} (h : Runs i s) : (effect i s).slot 0 = s.slot 0 := by
  cases i
  case call nnn =>
    have hsp : s.sp.toNat ≠ 15 := fun e => h (BitVec.eq_of_toNat_eq e)
    exact (State.slot_push s 0 _).trans (if_neg (sp_add_one_ne_zero hsp).symm)
  all_goals rfl

/-- Settles O52: call is the one writer of the stack. -/
theorem slotZeroIsNeverWritten : Obligations.SlotZeroIsNeverWritten := by
  intro s t hst
  have h : StepInvariant fun u => u.slot 0 = s.slot 0 :=
    { loop := fun _ _ _ _ _ _ _ _ hu => hu
      terminate := fun _ _ hu => hu
      stop := fun _ _ _ hu => hu
      run := fun u i _ hr hu => (effect_slot_zero hr).trans hu }
  exact h.step hst rfl

theorem effect_mem_wf {i : Instr} {s : State} (h : Runs i s) (hwf : s.mem.wf = true) : (effect i s).mem.wf = true := by
  have hend : ∀ {n}, InRange s (n + 1) → s.idx.toNat + (n + 1) ≤ 4096 :=
    fun hr => (inRange_iff.mp hr).resolve_left (Nat.succ_ne_zero _)
  cases i
  case storeBcd x => exact Memory.wf_putList (bcdDigits (s.reg x)) _ _ (hend h) hwf
  case storeRegs x => exact wf_storeRange s _ hwf _ (hend h)
  all_goals exact hwf

/-- Settles O53: the two instructions that write memory run only where every address they write exists. -/
theorem stepKeepsMemoryCanonical : Obligations.StepKeepsMemoryCanonical := by
  intro s t hwf hst
  have h : StepInvariant fun u => u.mem.wf = true :=
    { loop := fun _ _ _ _ _ _ _ _ hu => hu
      terminate := fun _ _ hu => hu
      stop := fun _ _ _ hu => hu
      run := fun _ _ _ => effect_mem_wf }
  exact h.step hst hwf

theorem pc_add_toNat_le {s : State} (hpc : s.pc.toNat ≤ 4094) (d : Word) : (s.pc + d).toNat ≤ 4094 + d.toNat := by
  rw [BitVec.toNat_add]
  exact (Nat.mod_le _ _).trans (Nat.add_le_add_right hpc _)

theorem effect_pc_le {i : Instr} {s : State} (hpc : s.pc.toNat ≤ 4094) (hslot : ∀ k, (s.slot k).toNat ≤ 4096) :
    (effect i s).pc.toNat ≤ 0x10FE := by
  have h2 : (s.pc + 2).toNat ≤ 4096 := pc_add_toNat_le hpc 2
  have h4 : (s.pc + 4).toNat ≤ 4098 := pc_add_toNat_le hpc 4
  have hskip : ∀ c, (s.skipIf c).pc.toNat ≤ 0x10FE := by
    intro c
    rw [State.skipIf_pc]
    split <;> omega
  cases i
  case ret => exact (hslot s.sp).trans (by decide)
  case jump nnn | call nnn => exact (zextAddr_toNat nnn).trans_le (by have := nnn.isLt; omega)
  case jumpOffset nnn =>
    refine (jumpOffset_target_toNat nnn _).trans_le ?_
    have := nnn.isLt
    have := (s.reg 0).isLt
    omega
  case skipEqImm | skipNeqImm | skipEqReg | skipNeqReg | skipIfKey | skipIfNotKey => exact hskip _
  case waitKey x =>
    rw [effect]
    cases s.keyBlockRead with
    | none => exact hpc.trans (by decide)
    | some k => exact h2.trans (by decide)
  all_goals exact h2.trans (by decide)

theorem effect_slot_le {i : Instr} {s : State} (hpc : s.pc.toNat ≤ 4094) (hslot : ∀ k, (s.slot k).toNat ≤ 4096)
    (k : BitVec 4) : ((effect i s).slot k).toNat ≤ 4096 := by
  cases i
  case call nnn =>
    refine (congrArg BitVec.toNat (State.slot_push s k (s.pc + 2))).trans_le ?_
    split
    · exact pc_add_toNat_le hpc 2
    · exact hslot k
  all_goals exact hslot k

/-- Settles O54: an instruction is fetched from at most 4094, and from there `pc` moves by at most 4, to a 12-bit address with at
most a byte added, or to a return address. -/
theorem stepKeepsAddressesBounded : Obligations.StepKeepsAddressesBounded := by
  intro s t hs hst
  have h : StepInvariant State.AddressesBounded :=
    { loop := fun _ _ _ _ _ _ _ _ hu => hu
      terminate := fun _ _ hu => hu
      stop := fun _ _ _ hu => hu
      run := fun _ _ hpc _ ⟨_, hslot⟩ => ⟨effect_pc_le hpc hslot, effect_slot_le hpc hslot⟩ }
  exact h.step hst hs

theorem State.StatusCoherent.fatal_eq_none {s : State} (h : s.StatusCoherent) (hrun : s.halted = false) : s.fatal = none := by
  rcases h with ⟨_, hf, _⟩ | ⟨hh, _, _⟩ | ⟨hh, _⟩
  · exact hf
  · simp [hrun] at hh
  · simp [hrun] at hh

/-- Settles O55: termination and a fatal stop happen to a running CORE only, whose `fault` is empty, and an instruction that runs
leaves the record. -/
theorem stepKeepsStatusCoherent : Obligations.StepKeepsStatusCoherent := by
  intro s t hs hst
  have h : StepInvariant State.StatusCoherent :=
    { loop := fun _ _ _ _ _ _ _ _ hu => hu
      terminate := fun _ hrun hu => .inr (.inl ⟨rfl, hu.fatal_eq_none hrun, rfl⟩)
      stop := fun _ r _ _ => .inr (.inr ⟨rfl, r, rfl, rfl⟩)
      run := fun u i _ _ hu => by rwa [State.StatusCoherent, effect_halted, effect_fatal, effect_exitCode] }
  exact h.step hst hs

theorem decayed_polls_lt {p : Params} (hp : 1 ≤ p.keyDecayPolls) (key : Option Key) (polls : Nat) (e : Option HostSymbol) :
    (decayed p key polls e).2 < p.keyDecayPolls := by
  cases e with
  | some sym => exact hp
  | none =>
    rw [decayed]
    split
    · exact hp
    · exact Nat.lt_of_not_le ‹_›

/-- Settles O56: the key skips are the one writer of the counter, and the read restarts it before it reaches the limit. -/
theorem stepKeepsPollsBounded : Obligations.StepKeepsPollsBounded := by
  intro s t hs hst
  have h : StepInvariant State.PollsBounded :=
    { loop := fun _ _ _ _ _ _ _ _ hu => hu
      terminate := fun _ _ hu => hu
      stop := fun _ _ _ hu => hu
      run := fun u i _ _ hu hvalid => by
        rw [effect_params] at hvalid ⊢
        cases i
        case skipIfKey | skipIfNotKey =>
          obtain ⟨hp, _⟩ := Bool.and_eq_true_iff.mp hvalid
          exact decayed_polls_lt (of_decide_eq_true hp) _ _ _
        all_goals exact hu hvalid }
  exact h.step hst hs

end Sys2Proof.Machine
end

section
/-! Reset (10_state R34, 70_reset_and_hazards R260 to R263): its values, the invariants, and where the font and the image lie. -/

namespace Sys2Proof.Machine

/-! ### The values of State.reset -/

theorem reset_reg (r : RegId) : State.reset.reg r = 0 := Vector.getElem_replicate r.isLt

theorem reset_slot (k : BitVec 4) : State.reset.slot k = 0 := Vector.getElem_replicate k.isLt

/-- Settles O57: the register file and the stack hold one value throughout, and the framebuffer is the blank one. -/
theorem resetValues : Obligations.ResetValues :=
  ⟨reset_reg, rfl, rfl, rfl, reset_slot, rfl, rfl, fun x y _ _ => Frame.pixel_blank x y, rfl, rfl, rfl, rfl, rfl, rfl, rfl⟩

/-- Settles O58: memory lists nothing, `pc` is 0x200 and the slots 0, CORE runs, and the counter 0 is below the default limit. -/
theorem resetMeetsTheInvariants : Obligations.ResetMeetsTheInvariants := by
  refine ⟨State.reset_mem_wf, ⟨by decide, fun k => ?_⟩, .inl ⟨rfl, rfl, rfl⟩, fun _ => by decide⟩
  rw [reset_slot]
  decide

/-! ### Memory with the font -/

/-- Writing what an address reads as unlisted leaves memory empty. -/
theorem putList_nil_of_unlisted : ∀ (bs : List Byte) (a : Nat), (∀ j (h : j < bs.length), bs[j] = unlisted (a + j)) →
    Memory.putList [] a bs = []
  | [], _, _ => rfl
  | b :: bs, a, h => by
    have hb : b = unlisted a := h 0 (Nat.zero_lt_succ _)
    rw [Memory.putList, Memory.put, if_pos hb]
    refine putList_nil_of_unlisted bs (a + 1) fun j hj => ?_
    have hj' := h (j + 1) (Nat.succ_lt_succ hj)
    rwa [List.getElem_cons_succ, Nat.add_comm j 1, ← Nat.add_assoc] at hj'

theorem unlisted_eq_zero {a : Nat} (h : 80 ≤ a) : unlisted a = 0 :=
  List.getD_eq_default _ _ (by simpa using h)

theorem bootBlank_standard {c : Config} (hp : c.params = Params.default) (hf : c.font = fontTable) : bootBlank c = State.reset := by
  have hmem : Memory.putList [] 0 fontTable.toList = [] := by
    refine putList_nil_of_unlisted _ 0 fun j hj => ?_
    rw [Nat.zero_add, unlisted, List.getD_eq_getElem _ _ hj]
  rw [bootBlank, hp, hf, hmem]
  rfl

section
variable (c : Config)

theorem bootBlank_mem_wf : (bootBlank c).mem.wf = true :=
  Memory.wf_putList _ _ _ (by simp) rfl

theorem bootBlank_byte_font {a : Nat} (h : a < 80) : (bootBlank c).mem.byte a = c.font[a] := by
  have hin := Memory.byte_putList_inside c.font.toList [] 0 a (by simpa using h) (by simp) rfl
  rw [Nat.zero_add, Vector.getElem_toList] at hin
  exact hin

theorem bootBlank_byte_above {a : Nat} (h : 80 ≤ a) : (bootBlank c).mem.byte a = 0 :=
  (Memory.byte_putList_outside _ _ _ (.inr (by simpa using h))).trans (unlisted_eq_zero h)

end

/-! ### Loading the image -/

theorem boot_of_fits {c : Config} (h : 0x200 + c.image.length ≤ 4096) :
    boot c = { bootBlank c with mem := (bootBlank c).mem.putList 0x200 c.image } := if_pos h

theorem boot_of_oversize {c : Config} (h : 4096 < 0x200 + c.image.length) : boot c =
    (bootBlank c).fatalStop { kind := .imageTooLarge, pc0 := none, w := none, info := c.image.length } :=
  if_neg (Nat.not_le.mpr h)

/-- The image is above the font, so below 0x200 memory is as without it. -/
theorem boot_byte_below (c : Config) {a : Nat} (h : a < 0x200) : (boot c).mem.byte a = (bootBlank c).mem.byte a := by
  rcases Nat.lt_or_ge 4096 (0x200 + c.image.length) with hbig | hfit
  · rw [boot_of_oversize hbig, State.fatalStop_mem]
  · rw [boot_of_fits hfit]
    exact Memory.byte_putList_outside _ _ _ (.inl h)

theorem boot_mem_wf (c : Config) : (boot c).mem.wf = true := by
  rcases Nat.lt_or_ge 4096 (0x200 + c.image.length) with hbig | hfit
  · rw [boot_of_oversize hbig]
    exact bootBlank_mem_wf c
  · rw [boot_of_fits hfit]
    exact Memory.wf_putList _ _ _ hfit (bootBlank_mem_wf c)

/-- Settles O59: the font and the image are two copies that do not meet, and an image that does not fit is not copied. -/
theorem bootPlacesFontAndImage : Obligations.BootPlacesFontAndImage := by
  refine fun c => ⟨boot_mem_wf c, fun a h => ?_, fun a hlo hhi => ?_, fun hfit => ⟨fun j hj => ?_, fun a hlo _ => ?_, ?_⟩,
    fun hbig => ⟨fun a hlo _ => ?_, ⟨5, ?_, by decide⟩, ?_⟩, fun hp hf hi => ?_⟩
  · rw [boot_byte_below c (by omega), bootBlank_byte_font c h]
  · rw [boot_byte_below c hhi, bootBlank_byte_above c hlo]
  · rw [boot_of_fits hfit]
    exact Memory.byte_putList_inside _ _ _ j hj hfit (bootBlank_mem_wf c)
  · rw [boot_of_fits hfit]
    exact (Memory.byte_putList_outside _ _ _ (.inr hlo)).trans (bootBlank_byte_above c (by omega))
  · rw [boot_of_fits hfit]
    rfl
  · rw [boot_of_oversize hbig, State.fatalStop_mem, bootBlank_byte_above c (by omega)]
  · rw [boot_of_oversize hbig]
    rfl
  · rw [boot_of_oversize hbig]
    rfl
  · rw [boot_of_fits (by rw [hi]; decide), hi, bootBlank_standard hp hf]
    rfl

end Sys2Proof.Machine
end
